-- ==== Sys2Proof/Word.lean ====
section
/-! DEFINITION. The words of the EN-2208: bytes of the link, 16-bit frame numbers, 10-bit panel codes
and colours (conventions of 00_scope.md). -/

namespace Sys2Proof

/-- A byte of the input port, the through port or the return lane (R194). -/
abbrev Byte := BitVec 8

/-- A 16-bit frame number; it wraps from 65535 to 0 (00_scope.md, Frame numbers). -/
abbrev FrameNo := BitVec 16

/-- A 10-bit code of the panel port, 0–1023 (R157). -/
abbrev PanelCode := BitVec 10

/-- A colour (R,G,B), each channel 0–255 (00_scope.md, Colours). -/
structure Color where
  r : Byte
  g : Byte
  b : Byte
deriving DecidableEq, Repr

end Sys2Proof
end

