-- ==== Sys2Proof/Config.lean ====
section
/-! DEFINITION. What the manual fixes as capacities of the part, and the values it leaves open. An open
value is an `opaque` constant with no body: nothing in Lean can evaluate it, so a statement proved here
holds whatever the part produces. -/

namespace Sys2Proof.Config

/-- Packets the intake queue holds (R171). -/
def intakeCapacity : Nat := 16

/-- Records the reply queue holds (R178). -/
def replyCapacity : Nat := 8

/-- Requests the capture queue holds (R99). -/
def captureCapacity : Nat := 4

/-- Picture-memory pixel reads and writes of one output line (R128). -/
def lineBudget : Nat := 3072

/-- Blocks of picture memory (R87). -/
def blockCount : Nat := 6144

/-- Pixels along each side of a block (R87). -/
def blockSide : Nat := 32

/-- Bytes of picture memory: three per pixel, 32 × 32 pixels per block (R87). -/
def pictureBytes : Nat := blockCount * blockSide * blockSide * 3

/-- Item ids (R1). -/
def itemIds : Nat := 512

/-- Photo ids (R89). -/
def photoIds : Nat := 256

/-- Tile ids of one page (R1). -/
def tilesPerPage : Nat := 48

/-- Pages of a bank (R1). -/
def pageCount : Nat := 8

/-- The largest printable price (R73). -/
def priceLimit : Nat := 999999

/-- What a byte of picture memory that nothing has written reads as.
DESIGN CHOICE, unsafe (assumption 5): R87 says no reset clears picture memory and gives no content at power-on. -/
def unlistedByte : Byte := 0

/-- FREE VALUE (assumption 8): the one byte in which QUERY GLYPH sends a use count above 255.
R45 lets a count reach 384, section 11.8 gives it one byte, and no rule states that byte. -/
opaque glyphUseCountByte : Nat → Byte

/-- FREE VALUE (assumption 9): whether a strip fails with OVERRUN (true) or LOST (false) on a line that
both lacks the strip's source columns (R167) and leaves less budget than its width (R103). -/
opaque shortLineOverruns : Bool

end Sys2Proof.Config
end

