-- ==== Sys2Proof/Syntax.lean ====
section
/-! DEFINITION. The commands of the block: one constructor per row of spec/opcode_table.json.

The first thirty-four rows are commands of the Command Processor. Each carries the addressing of its packet and
the payload as the bytes of section 11.6, so that every length, every field value and every refusal of the
command's rule is an operand. The other rows are events of the input port, of the timers, of the return lane and
of the RESETn pin; their operands are the bytes that arrived and the levels that stand at the pins. -/

namespace Sys2Proof

/-- The addressing fields and the tag of a command packet (R169, section 11.3). -/
structure PacketHead where
  /-- 0–7 a node, 15 ALL (R170). -/
  target : BitVec 4
  /-- 0–7 a node, 15 NONE (R173). -/
  reply : BitVec 4
  tag : Byte
deriving DecidableEq, Repr

/-- The levels at the part's input pins (00_scope.md, Pin groups; R161, R178, R181). -/
structure Pins where
  /-- The panel sense pin reads the present level. -/
  panelSense : Bool
  /-- The three node address straps. -/
  straps : BitVec 3
deriving DecidableEq, Repr

/-- The commands and events of the EN-2208, one constructor per row of spec/opcode_table.json. -/
inductive Instr where
  /-- ITEM_PUT (R8). -/
  | itemPut (h : PacketHead) (payload : List Byte)
  /-- ITEM_DROP (R9). -/
  | itemDrop (h : PacketHead) (payload : List Byte)
  /-- COLUMN_PUT (R10). -/
  | columnPut (h : PacketHead) (payload : List Byte)
  /-- FORMAT_PUT (R12). -/
  | formatPut (h : PacketHead) (payload : List Byte)
  /-- TILE_PUT (R18). -/
  | tilePut (h : PacketHead) (payload : List Byte)
  /-- TILE_DROP (R19). -/
  | tileDrop (h : PacketHead) (payload : List Byte)
  /-- PAGE_WIPE (R20). -/
  | pageWipe (h : PacketHead) (payload : List Byte)
  /-- SCHED_PUT (R22). -/
  | schedPut (h : PacketHead) (payload : List Byte)
  /-- STAGE_COPY (R28). -/
  | stageCopy (h : PacketHead) (payload : List Byte)
  /-- AUDIT (R30). -/
  | audit (h : PacketHead) (payload : List Byte)
  /-- TAKE (R40). -/
  | take (h : PacketHead) (payload : List Byte)
  /-- TAKE_CANCEL (R46). -/
  | takeCancel (h : PacketHead) (payload : List Byte)
  /-- STOCK (R24). -/
  | stock (h : PacketHead) (payload : List Byte)
  /-- FORCE (R57). -/
  | force (h : PacketHead) (payload : List Byte)
  /-- HIGHLIGHT (R133). -/
  | highlight (h : PacketHead) (payload : List Byte)
  /-- BACKLIGHT (R164). -/
  | backlight (h : PacketHead) (payload : List Byte)
  /-- CONFIG_PUT (R185). -/
  | configPut (h : PacketHead) (payload : List Byte)
  /-- GAMMA_PUT (R159). -/
  | gammaPut (h : PacketHead) (payload : List Byte)
  /-- PHOTO_OPEN (R93). -/
  | photoOpen (h : PacketHead) (payload : List Byte)
  /-- PHOTO_DROP (R94). -/
  | photoDrop (h : PacketHead) (payload : List Byte)
  /-- CAPTURE (R100). -/
  | capture (h : PacketHead) (payload : List Byte)
  /-- GLYPH_LOAD (R98). -/
  | glyphLoad (h : PacketHead) (payload : List Byte)
  /-- CAPTURE_FLUSH (R109). -/
  | captureFlush (h : PacketHead) (payload : List Byte)
  /-- QUERY of kind NODE (R187). -/
  | queryNode (h : PacketHead) (payload : List Byte)
  /-- QUERY of kind ITEM (R188). -/
  | queryItem (h : PacketHead) (payload : List Byte)
  /-- QUERY of kind TILE (R139). -/
  | queryTile (h : PacketHead) (payload : List Byte)
  /-- QUERY of kind PHOTO (R111). -/
  | queryPhoto (h : PacketHead) (payload : List Byte)
  /-- QUERY of kind STAGING (R189). -/
  | queryStaging (h : PacketHead) (payload : List Byte)
  /-- QUERY of kind SCHEDULE (R64). -/
  | querySchedule (h : PacketHead) (payload : List Byte)
  /-- QUERY of kind GLYPH (R111). -/
  | queryGlyph (h : PacketHead) (payload : List Byte)
  /-- NODE_RESET of scope TABLES (R191). -/
  | nodeResetTables (h : PacketHead) (payload : List Byte)
  /-- NODE_RESET of scope FULL (R192), with the levels at the pins when it is taken. -/
  | nodeResetFull (h : PacketHead) (payload : List Byte) (pins : Pins)
  /-- RESTRAP (R183), with the levels at the pins when it is taken. -/
  | restrap (h : PacketHead) (payload : List Byte) (pins : Pins)
  /-- A packet with an unassigned command code (R172). -/
  | unknownCommand (h : PacketHead) (code : Byte) (payload : List Byte)
  /-- A header line ends, with the bytes that arrived in it (R141). -/
  | headerLineEnd (line : List Byte) (pins : Pins)
  /-- A frame-start mark arrives (R167), with the bytes of the line it cuts short, if a line was in progress. -/
  | frameStartMark (cut : Option (List Byte)) (pins : Pins)
  /-- A packet line ends, its line kind byte first (R169, section 11.2). -/
  | packetLine (line : List Byte) (pins : Pins)
  /-- An active line arrives, its line kind byte first (R167, section 11.2). -/
  | activeLine (line : List Byte)
  /-- The input port loses its signal (R145), with the bytes of the line it cuts short, if a line was in progress. -/
  | inputSignalLoss (cut : Option (List Byte)) (pins : Pins)
  /-- No line and no mark within 200 µs (R145), with the bytes of a line left unfinished. -/
  | lineGapTimeout (cut : Option (List Byte)) (pins : Pins)
  /-- The header timer expires in LIVE or LOSS_WAIT (R142). -/
  | headerTimerExpires (pins : Pins)
  /-- The header timer, running as a gap timer, expires in SEARCH or STANDALONE (R148). -/
  | gapTimerExpires
  /-- The local frame timer expires in SEARCH or STANDALONE (R143). -/
  | localFrameTimerExpires (pins : Pins)
  /-- One local line period passes (R144). -/
  | localLineTimer
  /-- The node's seconds tick (R154). -/
  | clockSecondTick
  /-- The upstream transfer may begin (R178); `hold` is the level of the upstream neighbour's hold. -/
  | upstreamTransferStart (hold : Bool)
  /-- The upstream neighbour accepts the record in transfer (R178). -/
  | upstreamTransferDone (pins : Pins)
  /-- A record has been received whole from downstream (R179). -/
  | downstreamRecordReceived (record : List Byte)
  /-- RESETn is asserted (R193). -/
  | resetnAssert
  /-- RESETn is released (R193), with the levels at the pins. -/
  | resetnRelease (pins : Pins)
  /-- A record being received is cut short by a reset of its sender (R179). -/
  | downstreamRecordCutShort
  /-- The transfer upstream is cut by a reset of the upstream neighbour (R179). -/
  | upstreamTransferCut (hold : Bool)
deriving DecidableEq, Repr

end Sys2Proof
end

