-- ==== Sys2Proof/WellFormed.lean ====
section
/-! DEFINITION. Which commands the part can meet: a payload of at most 240 bytes (R169), the kind or scope byte that the row
names (section 11.6), a code that is not assigned (R172), and the line kind byte of a line (R194). -/

namespace Sys2Proof

/-- A packet carries at most 240 payload bytes (R169, section 11.3). -/
def payloadFits (payload : List Byte) : Bool := payload.length ≤ 240

/-- The first payload byte is the one the row names. -/
def opensWith (b : Byte) (payload : List Byte) : Bool := payloadFits payload && payload.head? = some b

/-- The assigned command codes (section 11.6). -/
def assignedCodes : List Byte :=
  [0x10, 0x11, 0x12, 0x13, 0x14, 0x15, 0x16, 0x17, 0x18, 0x19, 0x1A, 0x1B, 0x20, 0x21, 0x22, 0x23, 0x24, 0x25, 0x30, 0x31,
   0x32, 0x33, 0x34, 0x40, 0x41, 0x42]

/-- A command that the part can meet. -/
def Instr.wf : Instr → Bool
  | .itemPut _ p | .itemDrop _ p | .columnPut _ p | .formatPut _ p | .tilePut _ p | .tileDrop _ p | .pageWipe _ p
  | .schedPut _ p | .stageCopy _ p | .audit _ p | .take _ p | .takeCancel _ p | .stock _ p | .force _ p
  | .highlight _ p | .backlight _ p | .configPut _ p | .gammaPut _ p | .photoOpen _ p | .photoDrop _ p | .capture _ p
  | .glyphLoad _ p | .captureFlush _ p => payloadFits p
  | .queryNode _ p => opensWith 0x00 p
  | .queryItem _ p => opensWith 0x01 p
  | .queryTile _ p => opensWith 0x02 p
  | .queryPhoto _ p => opensWith 0x03 p
  | .queryStaging _ p => opensWith 0x04 p
  | .querySchedule _ p => opensWith 0x05 p
  | .queryGlyph _ p => opensWith 0x06 p
  | .nodeResetTables _ p => opensWith 0x00 p
  | .nodeResetFull _ p _ => opensWith 0x01 p
  | .restrap _ p _ => payloadFits p
  | .unknownCommand _ code p => payloadFits p && !assignedCodes.contains code
  | .packetLine line _ => line.head? = some 0x02
  | .activeLine line => line.head? = some 0x01
  | .headerLineEnd _ _ | .frameStartMark _ _ | .inputSignalLoss _ _ | .lineGapTimeout _ _ | .headerTimerExpires _
  | .gapTimerExpires | .localFrameTimerExpires _ | .localLineTimer | .clockSecondTick | .upstreamTransferStart _
  | .upstreamTransferDone _ | .downstreamRecordReceived _ | .resetnAssert | .resetnRelease _
  | .downstreamRecordCutShort | .upstreamTransferCut _ => true

end Sys2Proof
end

