-- ==== Sys2Proof/Decode.lean ====
section
/-! DEFINITION. The commands that words of the opcode table spell: none, since no row of the table gives bits. The bytes of
packets, headers and records are read in Machine/Operands.lean. -/

namespace Sys2Proof

/-- The command a word spells by the table's bits. No row of spec/opcode_table.json has any. -/
def decodeTableWord (_nbits _w : Nat) : Option Instr := none

end Sys2Proof
end

