-- ==== Sys2Proof/Machine/State.lean ====
section
/-! DEFINITION. The state of one EN-2208 node, block by block (00_scope.md, Blocks), as plain data, with the
state right after reset. What each field may hold is the rule its docstring names. -/

namespace Sys2Proof.Machine

/-- A sparse table: entries of key and record in strictly rising key order. A key with no entry is absent. -/
abbrev Table (α : Type) := List (Nat × α)

/-- One value for each price column 0–3, and equally for each font 0–3. -/
structure PerColumn (α : Type) where
  c0 : α
  c1 : α
  c2 : α
  c3 : α
deriving DecidableEq, Repr

/-! ### The Table Store: banks (R1–R24) -/

/-- One entry of a combo's component list (R6). -/
structure Component where
  item : Nat
  quantity : Nat
deriving DecidableEq, Repr

/-- What the kind of an item fixes (R4): a price set (R5), or a component list and a discount (R6). -/
inductive ItemBody where
  | simple (prices : PerColumn (Option Nat))
  | combo (components : List Component) (discount : Nat)
deriving DecidableEq, Repr

/-- An item record (R4). Its id is its key in the item table. -/
structure ItemRec where
  body : ItemBody
  /-- The optional default photo (R7). -/
  photo : Option Nat
deriving DecidableEq, Repr

inductive CurrencySymbol where
  | none | before | after
deriving DecidableEq, Repr

inductive MinorDigits where
  | zero | two
deriving DecidableEq, Repr

inductive Rounding where
  | exact | nearest | up | ending
deriving DecidableEq, Repr

/-- The price format record (R11). -/
structure PriceFormat where
  symbol : CurrencySymbol
  minor : MinorDigits
  shortForm : Bool
  rounding : Rounding
  step : Nat
  ending : Nat
  taxInclusive : Bool
  /-- Basis points. -/
  taxRate : Nat
deriving DecidableEq, Repr

inductive ShowWhen where
  | always | available | soldOut
deriving DecidableEq, Repr

inductive Treatment where
  | keep | dim | hide
deriving DecidableEq, Repr

inductive Align where
  | left | right | center
deriving DecidableEq, Repr

/-- The price style of a PRICE tile (R17). -/
structure PriceStyle where
  font : Nat
  ink : Color
  align : Align
  pad : Byte
  textTop : Nat
  tracking : Nat
deriving DecidableEq, Repr

/-- What the kind of a tile fixes (R13, R15, R17). -/
inductive TileBody where
  | photo (own : Option Nat) (ox oy : Int)
  | price (style : PriceStyle)
  | panel
deriving DecidableEq, Repr

/-- A tile's optional fill (R16). -/
structure Fill where
  color : Color
  opacity : Byte
deriving DecidableEq, Repr

/-- A tile record (R13–R17). Its page and tile id are its key in the tile table. -/
structure TileRec where
  body : TileBody
  x : Int
  y : Int
  w : Nat
  h : Nat
  z : Byte
  item : Option Nat
  fill : Option Fill
  opacity : Byte
  showWhen : ShowWhen
  treatment : Treatment
  blink : Byte
deriving DecidableEq, Repr

/-- A schedule entry (R21). -/
structure SchedEntry where
  start : Nat
  page : Nat
  column : Nat
  target : Byte
deriving DecidableEq, Repr

/-- A bank: one complete menu (R1). Tiles are keyed by page × 48 + tile id. -/
structure Bank where
  items : Table ItemRec
  /-- Column factors, per mille (R10). -/
  factors : PerColumn Nat
  format : PriceFormat
  tiles : Table TileRec
  schedule : List SchedEntry
deriving DecidableEq, Repr

/-- A stock map entry (R23). -/
inductive Stock where
  | available | soldOut
deriving DecidableEq, Repr

/-- The staged state (R25). -/
inductive StagedState where
  | clean | dirty | auditing | passed | failed
deriving DecidableEq, Repr

/-- The Table Store (R1, R23, R25, R42). -/
structure TableStore where
  live : Bank
  staged : Bank
  stagedState : StagedState
  /-- One entry for each item id 0–511. -/
  stock : List Stock
  /-- The pending take's target frame number. -/
  pendingTake : Option FrameNo
  /-- NODE_RESET TABLES has emptied the live bank in this frame, so the reference and use counts become 0 at
  the next frame start (R45). -/
  countsExpire : Bool
deriving DecidableEq, Repr

/-! ### The Audit Unit (R29) -/

/-- A set of checks 1–5 (R184). -/
structure AuditMask where
  c1 : Bool
  c2 : Bool
  c3 : Bool
  c4 : Bool
  c5 : Bool
deriving DecidableEq, Repr

/-- Where an audit failed: the object kind, page, object id and detail of the table of section 2.4. -/
inductive AuditFailure where
  | tile (page id detail : Nat)
  | item (id detail : Nat)
  | photo (id : Nat)
  | page (page detail : Nat)
  | nothing
deriving DecidableEq, Repr

/-- The last audit result (R29). -/
inductive AuditResult where
  | none
  | passed
  | failed (check : Nat) (failure : AuditFailure)
  | edited
  | copied
  | taken
  | reset
deriving DecidableEq, Repr

/-- The audit progress (R29, R31). -/
structure AuditProgress where
  enabled : AuditMask
  /-- The next check to run, or none when no check is enabled. -/
  next : Option Nat
  /-- Whether that check runs in the frame in progress; no check runs in the frame in which AUDIT is taken. -/
  running : Bool
deriving DecidableEq, Repr

structure AuditUnit where
  progress : Option AuditProgress
  result : AuditResult
deriving DecidableEq, Repr

/-! ### The Frame Timing Unit (R140) -/

inductive LinkState where
  | search | live | lossWait | standalone
deriving DecidableEq, Repr

structure FrameTiming where
  link : LinkState
  number : FrameNo
  good : Nat
  miss : Nat
  missed : Bool
  /-- The header timer is running: the header timeout in LIVE and LOSS_WAIT, the gap in SEARCH and STANDALONE. -/
  headerTimer : Bool
  /-- The local frame timer is running. -/
  localTimer : Bool
  hour : Nat
  minute : Nat
  second : Nat
  timeValid : Bool
deriving DecidableEq, Repr

/-! ### The Frame Context Unit (R48, R132, R184) -/

inductive AuditPolicy where
  | strict | lax
deriving DecidableEq, Repr

/-- The node settings (R184). -/
structure NodeSettings where
  vx : Nat
  vy : Nat
  vw : Nat
  vh : Nat
  fill : Color
  /-- Local frame rate, frames per second. -/
  rate : Nat
  /-- Header timeout, milliseconds. -/
  timeout : Nat
  policy : AuditPolicy
  mask : AuditMask
  dim : Byte
  fadeStep : Byte
  defaultTarget : Byte
deriving DecidableEq, Repr

inductive OverrideMode where
  | untilRelease | untilBoundary
deriving DecidableEq, Repr

/-- A held FORCE override (R56). -/
structure Override where
  mode : OverrideMode
  page : Nat
  column : Nat
deriving DecidableEq, Repr

/-- A highlight (R132). -/
structure Highlight where
  tile : Nat
  margin : Nat
  thickness : Nat
  color : Color
  blink : Byte
deriving DecidableEq, Repr

/-- The previous frame's active entry: start minute, page and column (R48). -/
structure PrevEntry where
  start : Nat
  page : Nat
  column : Nat
deriving DecidableEq, Repr

structure FrameContext where
  override : Option Override
  high0 : Option Highlight
  high1 : Option Highlight
  prev : Option PrevEntry
  settings : NodeSettings
deriving DecidableEq, Repr

/-! ### The Photo Store and the Glyph Store (R87–R97) -/

inductive PhotoState where
  | opened | ready
deriving DecidableEq, Repr

/-- The result of the last strip of a photo that ended (R89). -/
inductive StripResult where
  | none | done | overrun | lost | outOfCanvas | flushed
deriving DecidableEq, Repr

/-- A photo directory record (R89). Its id is its key in the directory. -/
structure PhotoRec where
  state : PhotoState
  w : Nat
  h : Nat
  key : Option Color
  /-- Row-major block list (R87). -/
  blocks : List Nat
  rowsFilled : Nat
  last : StripResult
  skipped : Nat
deriving DecidableEq, Repr

structure PhotoStore where
  directory : Table PhotoRec
  /-- The free list, head first (R88). -/
  free : List Nat
  /-- Picture memory as bytes (R87): address ((block × 32 + line) × 32 + column) × 3 + channel. -/
  memory : List Host.Cell
  /-- The live reference count of each photo id 0–255 (R91). -/
  refCounts : List Nat
deriving DecidableEq, Repr

/-- A glyph slot (R96). While LOADING it holds the bitmap lines written so far (R97). -/
inductive GlyphSlot where
  | empty
  | loading (rows : List (List Bool))
  | loaded (w h : Nat) (bitmap : List (List Bool))
deriving DecidableEq, Repr

structure GlyphStore where
  /-- Forty-eight slots, at font × 12 + slot. -/
  slots : List GlyphSlot
  /-- The use count of each font 0–3 (R45). -/
  useCounts : PerColumn Nat
deriving DecidableEq, Repr

/-! ### The Capture Engine (R99) -/

inductive CaptureRequest where
  | strip (photo x y row rows : Nat)
  | glyph (font slot x y w h : Nat)
deriving DecidableEq, Repr

/-- The request in flight and the number of its source lines already written. -/
structure InFlight where
  request : CaptureRequest
  written : Nat
deriving DecidableEq, Repr

structure CaptureEngine where
  queue : List CaptureRequest
  inFlight : Option InFlight
deriving DecidableEq, Repr

/-! ### The frame in progress: snapshot, price cache, text plans and frame tile list (R49, R65, R117) -/

/-- The status of a live item in a frame; an item with no entry is MISSING (R60–R62). -/
structure ItemStatus where
  offered : Bool
  available : Bool
deriving DecidableEq, Repr

/-- A price cache entry (R65). -/
inductive PriceEntry where
  | notOffered
  | overflow (value : Nat)
  | priced (value : Nat) (glyphs : List Nat)
deriving DecidableEq, Repr

/-- A text plan (R78). -/
inductive TextPlan where
  | noItem | noPrice | overflow | noGlyph | tooWide
  | text (start width : Nat)
deriving DecidableEq, Repr

/-- The three gamma tables, 256 entries each (R157). -/
structure GammaTables where
  red : List PanelCode
  green : List PanelCode
  blue : List PanelCode
deriving DecidableEq, Repr

/-- The frame snapshot (R49) with the Price Resolver's cache and text plans (R65). -/
structure Snapshot where
  bank : Bank
  number : FrameNo
  minute : Nat
  timeValid : Bool
  /-- The active entry with its position in the list. -/
  active : Option (Nat × SchedEntry)
  page : Nat
  column : Nat
  schedTarget : Byte
  status : Table ItemStatus
  cache : Table PriceEntry
  /-- The text plan of each PRICE tile of the page, by tile id. -/
  plans : Table TextPlan
  /-- The state of each photo with a record; a photo with no entry is NO_RECORD. -/
  photos : Table PhotoState
  /-- Whether each of the 48 glyph slots is LOADED. -/
  glyphs : List Bool
  high0 : Option Highlight
  high1 : Option Highlight
  settings : NodeSettings
  gamma : GammaTables
  /-- The backlight target resolved with any BACKLIGHT override (R163). -/
  target : Byte
deriving DecidableEq, Repr

/-- The five per-tile frame flags (R136). -/
structure TileFlags where
  missingRef : Bool
  notReady : Bool
  overflow : Bool
  missingGlyph : Bool
  budgetShort : Bool
deriving DecidableEq, Repr

/-- A tile's clipped rect (R121): columns x0 to x1 − 1 and lines y0 to y1 − 1, empty when x1 ≤ x0 or y1 ≤ y0. -/
structure ClippedRect where
  x0 : Nat
  x1 : Nat
  y0 : Nat
  y1 : Nat
deriving DecidableEq, Repr

/-- The content field of a frame tile list entry (R120). -/
inductive Content where
  | none
  | photo (id : Nat)
  | text (start : Nat)
deriving DecidableEq, Repr

/-- An entry of the frame tile list (R117). -/
structure TileEntry where
  id : Nat
  tile : TileRec
  clip : ClippedRect
  shown : Bool
  blinkVisible : Bool
  dimmed : Bool
  content : Content
  flags : TileFlags
deriving DecidableEq, Repr

/-- What began a frame: a good header line, a bad header line, or the node itself (R142, R143). -/
inductive FrameKind where
  | goodHeader | badHeader | localFrame
deriving DecidableEq, Repr

/-- The frame in progress. -/
structure Frame where
  snap : Snapshot
  tiles : List TileEntry
  kind : FrameKind
  /-- The frame's input lines may still arrive: a header frame whose input has not stopped (R114, R145). -/
  inputOpen : Bool
  /-- The next output line to compose (R113). -/
  nextLine : Nat
deriving DecidableEq, Repr

/-- The kept flags of the last completed frame, by tile id (R137). -/
structure KeptFlags where
  number : FrameNo
  page : Nat
  flags : Table TileFlags
deriving DecidableEq, Repr

/-! ### The Output Stage (R157) -/

inductive PanelState where
  | absent | present
deriving DecidableEq, Repr

structure OutputStage where
  gamma : GammaTables
  panel : PanelState
  debounce : Nat
  level : Byte
  /-- The BACKLIGHT override: a held target, or released. -/
  override : Option Byte
deriving DecidableEq, Repr

/-! ### The Link Receiver, Packet Intake and the Return Lane Interface (R167–R183) -/

/-- The position in the current input frame (R167). -/
inductive Position where
  /-- No mark has arrived since the reset. -/
  | outside
  /-- A mark has arrived; the next line is the header line. -/
  | awaitHeader
  /-- The header line has ended, and this many ACTIVE lines have arrived since the mark. -/
  | lines (active : Nat)
deriving DecidableEq, Repr

structure LinkReceiver where
  position : Position
  /-- The canvas width and height held for the frame (R141). -/
  canvas : Option (Nat × Nat)
deriving DecidableEq, Repr

/-- A command packet whose CRC has checked (R169). -/
structure Packet where
  head : PacketHead
  code : Byte
  payload : List Byte
deriving DecidableEq, Repr

/-- The result codes (00_scope.md, Result codes). -/
inductive ResultCode where
  | ok | unknownCommand | badLength | outOfRange | notFound | inUse | noSpace | wrongState | busy
  | takePending | notAudited | takeWindow | rowOrder | queueFull
deriving DecidableEq, Repr

/-- A reply record (R175). The result is held as its byte, since forwarded records are carried unchanged. -/
structure ReplyRecord where
  source : Byte
  tag : Byte
  command : Byte
  result : Byte
  summary : BitVec 24
  data : List Byte
  crc : BitVec 16
deriving DecidableEq, Repr

/-- The ten events (R176). -/
inductive Event where
  | packetCrc | intakeOverrun | returnCrc | linkChanged | panelChanged
  | takeDone | takeCancelled | auditDone | captureDone | captureFailed
deriving DecidableEq, Repr

/-- The pending event set: for each event, raised or not (R176). -/
structure EventSet where
  packetCrc : Bool
  intakeOverrun : Bool
  returnCrc : Bool
  linkChanged : Bool
  panelChanged : Bool
  takeDone : Bool
  takeCancelled : Bool
  auditDone : Bool
  captureDone : Bool
  captureFailed : Bool
deriving DecidableEq, Repr

/-- Who takes the next contested slot of the reply queue (R180). -/
inductive GrantMemory where
  | own | forward
deriving DecidableEq, Repr

structure ReturnLane where
  queue : List ReplyRecord
  /-- A transfer of the oldest record is in progress (R178). -/
  sending : Bool
  /-- The receive buffer (R179). While it holds a record, the downstream neighbour is held off. -/
  buffer : Option ReplyRecord
  grant : GrantMemory
  address : BitVec 3
  conflict : Bool
  events : EventSet
  /-- The level of the upstream neighbour's hold (00_scope.md, Pin groups). -/
  upstreamHold : Bool
deriving DecidableEq, Repr

/-! ### What the ports carried during the last command: the model's own fields -/

/-- A symbol of the input stream, repeated on the through port (R168). -/
inductive StreamSymbol where
  | mark
  | line (bytes : List Byte)
deriving DecidableEq, Repr

/-- A triple of 10-bit codes on the panel port (R158). -/
structure PanelPixel where
  r : PanelCode
  g : PanelCode
  b : PanelCode
deriving DecidableEq, Repr

/-- What the panel port carries (R160). -/
inductive PanelSymbol where
  | frameMark
  | line (n : Nat) (pixels : List PanelPixel)
deriving DecidableEq, Repr

/-- An output line handed to the Output Stage (R116). -/
structure ComposedLine where
  n : Nat
  pixels : List Color
deriving DecidableEq, Repr

/-- What left the part during the last command. The model's own record of the ports; no rule reads it. -/
structure Outputs where
  through : List StreamSymbol
  composed : List ComposedLine
  panel : List PanelSymbol
  /-- The record the upstream neighbour accepted (R178). -/
  laneUp : Option ReplyRecord
  /-- The downstream neighbour's transfer ended as accepted (R179). -/
  laneDown : Bool
deriving DecidableEq, Repr

/-! ### The node -/

/-- The state of one EN-2208 node. -/
structure State where
  /-- RESETn is asserted (R193). -/
  resetn : Bool
  pins : Pins
  receiver : LinkReceiver
  /-- The intake queue, oldest first (R171). -/
  intake : List Packet
  lane : ReturnLane
  tables : TableStore
  audit : AuditUnit
  timing : FrameTiming
  context : FrameContext
  /-- The frame in progress; none before the first frame start after a reset (R140). -/
  frame : Option Frame
  photos : PhotoStore
  glyphs : GlyphStore
  capture : CaptureEngine
  /-- The flags of the last completed frame (R137). -/
  kept : Option KeptFlags
  output : OutputStage
  out : Outputs
  /-- The commands that wait, first in, first out: the model's own field. -/
  pending : List Instr
deriving DecidableEq, Repr

/-- Faults: there are none. Every row of the table ends in a next state, because the spec gives each an effect in
every state. The type is closed and empty, so no statement of the model can lean on a fault (safe). -/
inductive Fault where
deriving DecidableEq, Repr

/-- Refusals. -/
inductive Refusal where
  /-- Raised by exec's arm of an instruction that has no meaning yet, with its mnemonic; safe. No arm raises it. -/
  | notModelled (mnemonic : String)
deriving DecidableEq, Repr

/-! ### The state after reset -/

/-- The default price format (R2). -/
def defaultFormat : PriceFormat :=
  { symbol := .none, minor := .two, shortForm := false, rounding := .exact, step := 1, ending := 0,
    taxInclusive := false, taxRate := 0 }

/-- The empty bank at its defaults (R2). -/
def emptyBank : Bank :=
  { items := [], factors := ⟨1000, 1000, 1000, 1000⟩, format := defaultFormat, tiles := [], schedule := [] }

/-- Every entry AVAILABLE (R23). -/
def stockAllAvailable : List Stock := List.replicate Config.itemIds .available

/-- The default gamma table: entry i = (i × 1023 + 127) div 255 (R157). -/
def defaultGamma : List PanelCode :=
  (List.range 256).map fun i => BitVec.ofNat 10 ((i * 1023 + 127) / 255)

/-- The default node settings (R184). -/
def defaultSettings : NodeSettings :=
  { vx := 0, vy := 0, vw := 1920, vh := 1080, fill := ⟨0, 0, 0⟩, rate := 60, timeout := 50, policy := .strict,
    mask := ⟨true, true, true, true, true⟩, dim := 96, fadeStep := 4, defaultTarget := 200 }

/-- The empty event set (R176). -/
def noEvents : EventSet := ⟨false, false, false, false, false, false, false, false, false, false⟩

/-- Nothing has left the part. -/
def noOutputs : Outputs := { through := [], composed := [], panel := [], laneUp := none, laneDown := false }

/-- The part after RESETn has been released, with no command waiting. The spec gives each value but four: the
content of picture memory (assumption 5) and the levels at the panel sense pin, at the straps and at the upstream
hold (assumption 6), which nothing inside the part fixes. -/
def State.reset : State :=
  { resetn := false
    pins := { panelSense := false, straps := 0 }
    receiver := { position := .outside, canvas := none }
    intake := []
    lane :=
      { queue := [], sending := false, buffer := none, grant := .forward, address := 0, conflict := false,
        events := noEvents, upstreamHold := false }
    tables :=
      { live := emptyBank, staged := emptyBank, stagedState := .clean, stock := stockAllAvailable,
        pendingTake := none, countsExpire := false }
    audit := { progress := none, result := .none }
    timing :=
      { link := .search, number := 0, good := 0, miss := 0, missed := false, headerTimer := true,
        localTimer := true, hour := 0, minute := 0, second := 0, timeValid := false }
    context := { override := none, high0 := none, high1 := none, prev := none, settings := defaultSettings }
    frame := none
    photos :=
      { directory := [], free := List.range Config.blockCount, memory := [],
        refCounts := List.replicate Config.photoIds 0 }
    glyphs := { slots := List.replicate 48 .empty, useCounts := ⟨0, 0, 0, 0⟩ }
    capture := { queue := [], inFlight := none }
    kept := none
    output :=
      { gamma := ⟨defaultGamma, defaultGamma, defaultGamma⟩, panel := .absent, debounce := 0, level := 0,
        override := none }
    out := noOutputs
    pending := [] }

end Sys2Proof.Machine
end

