-- ==== Sys2Proof/Machine/Operands.lean ====
section
/-! DEFINITION. The operand forms: how the bytes of headers, packets, records and payloads are read and written
(R194, R195 and sections 11.2 to 11.8). A reader answers none where a field is out of the range its rule states. -/

namespace Sys2Proof.Machine

/-! ### Fields (R194) -/

/-- The byte at an offset. A payload is read only after its length has been tested. -/
def byteAt (p : List Byte) (o : Nat) : Byte := p.getD o 0

/-- A one-byte field. -/
def u8 (p : List Byte) (o : Nat) : Nat := (byteAt p o).toNat

/-- A two-byte field, most significant byte first. -/
def u16 (p : List Byte) (o : Nat) : Nat := u8 p o * 256 + u8 p (o + 1)

/-- A three-byte field, most significant byte first. -/
def u24 (p : List Byte) (o : Nat) : Nat := u16 p o * 256 + u8 p (o + 2)

/-- A 16-bit two's complement field. -/
def s16 (p : List Byte) (o : Nat) : Int :=
  if u16 p o < 32768 then (u16 p o : Int) else (u16 p o : Int) - 65536

/-- Three bytes in the order R, G, B (section 11.6). -/
def colorAt (p : List Byte) (o : Nat) : Color := ⟨byteAt p o, byteAt p (o + 1), byteAt p (o + 2)⟩

/-- A presence or enable flag: 00 or 01, any other byte is refused (R194). -/
def readFlag (b : Byte) : Option Bool :=
  if b = 0 then some false else if b = 1 then some true else none

def put8 (n : Nat) : List Byte := [BitVec.ofNat 8 n]

def put16 (n : Nat) : List Byte := [BitVec.ofNat 8 (n / 256), BitVec.ofNat 8 n]

def put24 (n : Nat) : List Byte := [BitVec.ofNat 8 (n / 65536), BitVec.ofNat 8 (n / 256), BitVec.ofNat 8 n]

def put32 (n : Nat) : List Byte := BitVec.ofNat 8 (n / 16777216) :: put24 n

def putS16 (i : Int) : List Byte := put16 (i % 65536).toNat

def putColor (c : Color) : List Byte := [c.r, c.g, c.b]

def putFlag (b : Bool) : List Byte := [if b then 1 else 0]

/-- That many zero bytes: how an absent or undefined field is sent (section 11.8). -/
def zeros (n : Nat) : List Byte := List.replicate n 0

/-! ### The CRC (R195) -/

/-- One shift of the register. -/
def crcShift (r : BitVec 16) : BitVec 16 :=
  if r.msb then (r <<< 1) ^^^ 0x1021 else r <<< 1

/-- One byte: placed on the upper eight bits by exclusive-or, then eight shifts. -/
def crcByte (r : BitVec 16) (b : Byte) : BitVec 16 :=
  Nat.iterate crcShift 8 (r ^^^ (b.setWidth 16 <<< 8))

/-- The CRC-16 of a span of bytes; an empty span gives FFFF. -/
def crc16 (bs : List Byte) : BitVec 16 := bs.foldl crcByte 0xFFFF

/-! ### The header line (section 11.2) -/

/-- The fields of a good header. -/
structure Header where
  number : FrameNo
  hour : Nat
  minute : Nat
  second : Nat
  width : Nat
  height : Nat
deriving DecidableEq, Repr

/-- A header's judgement (R141): its fields when it is good, none when it is bad. A line with fewer than 11 bytes
is bad (R167). -/
def parseHeader (bs : List Byte) : Option Header :=
  if bs.length < 11 then none
  else if (crc16 (bs.take 9)).toNat ≠ u16 bs 9 then none
  else if u16 bs 5 = 0 ∨ 8192 < u16 bs 5 ∨ u16 bs 7 = 0 ∨ 4096 < u16 bs 7 then none
  else some
    { number := BitVec.ofNat 16 (u16 bs 0), hour := u8 bs 2, minute := u8 bs 3, second := u8 bs 4,
      width := u16 bs 5, height := u16 bs 7 }

/-- The header fields at offsets 00–08. -/
def headerBody (h : Header) : List Byte :=
  put16 h.number.toNat ++ put8 h.hour ++ put8 h.minute ++ put8 h.second ++ put16 h.width ++ put16 h.height

/-- A header line as the player sends it, without padding. -/
def encodeHeader (h : Header) : List Byte := headerBody h ++ put16 (crc16 (headerBody h)).toNat

/-! ### The command packet (section 11.3) -/

/-- The packet in the bytes of a PACKET line after its kind byte, or none where its check fails (R169): the CRC does
not match, the payload length is above 240, or the packet has not arrived whole. -/
def parsePacket (bs : List Byte) : Option Packet :=
  if bs.length < 6 ∨ 240 < u8 bs 3 ∨ bs.length < 6 + u8 bs 3 then none
  else if (crc16 (bs.take (4 + u8 bs 3))).toNat ≠ u16 bs (4 + u8 bs 3) then none
  else some
    { head :=
        { target := (byteAt bs 0).extractLsb' 4 4, reply := (byteAt bs 0).extractLsb' 0 4, tag := byteAt bs 1 }
      code := byteAt bs 2
      payload := (bs.drop 4).take (u8 bs 3) }

/-- The packet's bytes from the target to the last payload byte. -/
def packetBody (p : Packet) : List Byte :=
  [p.head.target ++ p.head.reply, p.head.tag, p.code, BitVec.ofNat 8 p.payload.length] ++ p.payload

/-- A packet as the player sends it. -/
def encodePacket (p : Packet) : List Byte := packetBody p ++ put16 (crc16 (packetBody p)).toNat

/-! ### The reply record (section 11.4) -/

def put24Bits (v : BitVec 24) : List Byte := [v.extractLsb' 16 8, v.extractLsb' 8 8, v.extractLsb' 0 8]

/-- The record's bytes from the source node to the last data byte. -/
def recordBody (r : ReplyRecord) : List Byte :=
  [r.source, r.tag, r.command, r.result] ++ put24Bits r.summary ++ [BitVec.ofNat 8 r.data.length] ++ r.data

/-- A record as it is sent on the return lane. -/
def encodeRecord (r : ReplyRecord) : List Byte := recordBody r ++ put16 r.crc.toNat

/-- A record received whole from downstream, or none where its check fails (R179). -/
def parseRecord (bs : List Byte) : Option ReplyRecord :=
  if bs.length < 10 ∨ bs.length ≠ 10 + u8 bs 7 then none
  else if (crc16 (bs.take (8 + u8 bs 7))).toNat ≠ u16 bs (8 + u8 bs 7) then none
  else some
    { source := byteAt bs 0, tag := byteAt bs 1, command := byteAt bs 2, result := byteAt bs 3
      summary := byteAt bs 4 ++ byteAt bs 5 ++ byteAt bs 6
      data := (bs.drop 8).take (u8 bs 7)
      crc := byteAt bs (8 + u8 bs 7) ++ byteAt bs (9 + u8 bs 7) }

/-! ### Enumerations (section 11.6) -/

def readSymbol : Nat → Option CurrencySymbol
  | 0 => some .none | 1 => some .before | 2 => some .after | _ => none

def symbolCode : CurrencySymbol → Nat
  | .none => 0 | .before => 1 | .after => 2

def readMinor : Nat → Option MinorDigits
  | 0 => some .zero | 2 => some .two | _ => none

def minorCode : MinorDigits → Nat
  | .zero => 0 | .two => 2

def readRounding : Nat → Option Rounding
  | 0 => some .exact | 1 => some .nearest | 2 => some .up | 3 => some .ending | _ => none

def roundingCode : Rounding → Nat
  | .exact => 0 | .nearest => 1 | .up => 2 | .ending => 3

def readShowWhen : Nat → Option ShowWhen
  | 0 => some .always | 1 => some .available | 2 => some .soldOut | _ => none

def showWhenCode : ShowWhen → Nat
  | .always => 0 | .available => 1 | .soldOut => 2

def readTreatment : Nat → Option Treatment
  | 0 => some .keep | 1 => some .dim | 2 => some .hide | _ => none

def treatmentCode : Treatment → Nat
  | .keep => 0 | .dim => 1 | .hide => 2

def readAlign : Nat → Option Align
  | 0 => some .left | 1 => some .right | 2 => some .center | _ => none

def alignCode : Align → Nat
  | .left => 0 | .right => 1 | .center => 2

def readStock : Nat → Option Stock
  | 0 => some .available | 1 => some .soldOut | _ => none

def stockCode : Stock → Nat
  | .available => 0 | .soldOut => 1

def readPolicy : Nat → Option AuditPolicy
  | 0 => some .strict | 1 => some .lax | _ => none

def policyCode : AuditPolicy → Nat
  | .strict => 0 | .lax => 1

def overrideModeCode : OverrideMode → Nat
  | .untilRelease => 0 | .untilBoundary => 1

def linkCode : LinkState → Nat
  | .search => 0 | .live => 1 | .lossWait => 2 | .standalone => 3

def stagedCode : StagedState → Nat
  | .clean => 0 | .dirty => 1 | .auditing => 2 | .passed => 3 | .failed => 4

def panelCode : PanelState → Nat
  | .absent => 0 | .present => 1

def resultCode : ResultCode → Byte
  | .ok => 0x00 | .unknownCommand => 0x01 | .badLength => 0x02 | .outOfRange => 0x03 | .notFound => 0x04
  | .inUse => 0x05 | .noSpace => 0x06 | .wrongState => 0x07 | .busy => 0x08 | .takePending => 0x09
  | .notAudited => 0x0A | .takeWindow => 0x0B | .rowOrder => 0x0C | .queueFull => 0x0D

def stripResultCode : StripResult → Nat
  | .none => 0 | .done => 1 | .overrun => 2 | .lost => 3 | .outOfCanvas => 4 | .flushed => 5

/-! ### The item record (section 11.7, R8) -/

/-- A price position: a presence flag and a base price of 0–999,999 (R5). The price of an absent position is not read. -/
def readPrice (p : List Byte) (o : Nat) : Option (Option Nat) := do
  let present ← readFlag (byteAt p o)
  if present then
    guard (u24 p (o + 1) ≤ Config.priceLimit)
    some (some (u24 p (o + 1)))
  else some none

/-- A counted component slot: an item id 0–511 other than the combo's own, and a quantity 1–9 (R6, R8). -/
def readComponent (p : List Byte) (own o : Nat) : Option Component := do
  guard (u16 p o < Config.itemIds ∧ u16 p o ≠ own ∧ 1 ≤ u8 p (o + 2) ∧ u8 p (o + 2) ≤ 9)
  some ⟨u16 p o, u8 p (o + 2)⟩

/-- The body of a SIMPLE record. Component count, slots and discount are not checked and are discarded (R8). -/
def readSimple (p : List Byte) : Option ItemBody := do
  let p0 ← readPrice p 0x03
  let p1 ← readPrice p 0x07
  let p2 ← readPrice p 0x0B
  let p3 ← readPrice p 0x0F
  some (.simple ⟨p0, p1, p2, p3⟩)

/-- The body of a COMBO record. Price positions and slots beyond the count are not checked and are discarded (R8). -/
def readCombo (p : List Byte) (own : Nat) : Option ItemBody := do
  guard (1 ≤ u8 p 0x13 ∧ u8 p 0x13 ≤ 4)
  let components ← (List.range (u8 p 0x13)).mapM fun k => readComponent p own (0x14 + 3 * k)
  guard (u24 p 0x20 ≤ Config.priceLimit)
  some (.combo components (u24 p 0x20))

/-- The item record of an ITEM_PUT payload with its id, or none where R8 refuses OUT_OF_RANGE. -/
def parseItem (p : List Byte) : Option (Nat × ItemRec) := do
  guard (u16 p 0 < Config.itemIds)
  let hasPhoto ← readFlag (byteAt p 0x23)
  let body ←
    match u8 p 2 with
    | 0 => readSimple p
    | 1 => readCombo p (u16 p 0)
    | _ => none
  some (u16 p 0, ⟨body, if hasPhoto then some (u8 p 0x24) else none⟩)

def putPrice : Option Nat → List Byte
  | none => zeros 4
  | some v => putFlag true ++ put24 v

def putComponent (c : Component) : List Byte := put16 c.item ++ put8 c.quantity

/-- An item record of 37 bytes; fields the kind does not hold are zero bytes (section 11.8). -/
def encodeItem (id : Nat) (r : ItemRec) : List Byte :=
  put16 id ++
  (match r.body with
   | .simple prices =>
     put8 0 ++ putPrice prices.c0 ++ putPrice prices.c1 ++ putPrice prices.c2 ++ putPrice prices.c3 ++ zeros 16
   | .combo components discount =>
     put8 1 ++ zeros 16 ++ put8 components.length ++ components.flatMap putComponent ++
       zeros (12 - 3 * components.length) ++ put24 discount) ++
  (match r.photo with
   | none => zeros 2
   | some id => putFlag true ++ put8 id)

/-! ### The format record (section 11.7, R12) -/

/-- The steps a format may name (R11). -/
def priceSteps : List Nat := [1, 2, 5, 10, 25, 50, 100]

/-- The record of a FORMAT_PUT payload, or none where R12 refuses OUT_OF_RANGE. -/
def parseFormat (p : List Byte) : Option PriceFormat := do
  let symbol ← readSymbol (u8 p 0)
  let minor ← readMinor (u8 p 1)
  let shortForm ← readFlag (byteAt p 2)
  let rounding ← readRounding (u8 p 3)
  guard (u8 p 4 ∈ priceSteps)
  guard (u8 p 5 < u8 p 4)
  guard (u8 p 5 = 0 ∨ rounding = .ending)
  let taxInclusive ← readFlag (byteAt p 6)
  guard (u16 p 7 ≤ 5000)
  some
    { symbol := symbol, minor := minor, shortForm := shortForm, rounding := rounding, step := u8 p 4,
      ending := u8 p 5, taxInclusive := taxInclusive, taxRate := u16 p 7 }

def encodeFormat (f : PriceFormat) : List Byte :=
  put8 (symbolCode f.symbol) ++ put8 (minorCode f.minor) ++ putFlag f.shortForm ++ put8 (roundingCode f.rounding) ++
    put8 f.step ++ put8 f.ending ++ putFlag f.taxInclusive ++ put16 f.taxRate

/-! ### The tile record (section 11.7, R18) -/

/-- A tile's key in a bank. -/
def tileKey (page id : Nat) : Nat := page * Config.tilesPerPage + id

/-- The body of a PHOTO tile: own photo and anchor (R15). -/
def readPhotoBody (p : List Byte) (hasPhoto : Bool) : Option TileBody := do
  guard (-512 ≤ s16 p 0x11 ∧ s16 p 0x11 ≤ 2047 ∧ -512 ≤ s16 p 0x13 ∧ s16 p 0x13 ≤ 2047)
  some (.photo (if hasPhoto then some (u8 p 0x10) else none) (s16 p 0x11) (s16 p 0x13))

/-- The body of a PRICE tile: its price style (R17). A PRICE tile carries an item and no photo (R15). -/
def readPriceBody (p : List Byte) (hasItem hasPhoto : Bool) : Option TileBody := do
  guard (hasItem = true ∧ hasPhoto = false)
  guard (u8 p 0x1E ≤ 3)
  let align ← readAlign (u8 p 0x22)
  guard (u16 p 0x24 ≤ 2047 ∧ u8 p 0x26 ≤ 15)
  some (.price
    { font := u8 p 0x1E, ink := colorAt p 0x1F, align := align, pad := byteAt p 0x23, textTop := u16 p 0x24,
      tracking := u8 p 0x26 })

/-- The body a tile's kind fixes; the anchor and the style of the other kinds are discarded (R18). -/
def readTileBody (p : List Byte) (hasItem hasPhoto : Bool) : Option TileBody :=
  match u8 p 2 with
  | 0 => readPhotoBody p hasPhoto
  | 1 => readPriceBody p hasItem hasPhoto
  | 2 => if hasPhoto then none else some .panel
  | _ => none

/-- The tile record of a TILE_PUT payload with its page and tile id, or none where R18 refuses OUT_OF_RANGE. -/
def parseTile (p : List Byte) : Option (Nat × Nat × TileRec) := do
  guard (u8 p 0 < Config.pageCount ∧ u8 p 1 < Config.tilesPerPage)
  guard (-2048 ≤ s16 p 3 ∧ s16 p 3 ≤ 4095 ∧ -2048 ≤ s16 p 5 ∧ s16 p 5 ≤ 4095)
  guard (1 ≤ u16 p 7 ∧ u16 p 7 ≤ 2048 ∧ 1 ≤ u16 p 9 ∧ u16 p 9 ≤ 2048)
  let hasItem ← readFlag (byteAt p 0x0C)
  guard (hasItem = false ∨ u16 p 0x0D < Config.itemIds)
  let hasPhoto ← readFlag (byteAt p 0x0F)
  let body ← readTileBody p hasItem hasPhoto
  let hasFill ← readFlag (byteAt p 0x15)
  let showWhen ← readShowWhen (u8 p 0x1B)
  let treatment ← readTreatment (u8 p 0x1C)
  some (u8 p 0, u8 p 1,
    { body := body, x := s16 p 3, y := s16 p 5, w := u16 p 7, h := u16 p 9, z := byteAt p 0x0B
      item := if hasItem then some (u16 p 0x0D) else none
      fill := if hasFill then some ⟨colorAt p 0x16, byteAt p 0x19⟩ else none
      opacity := byteAt p 0x1A, showWhen := showWhen, treatment := treatment, blink := byteAt p 0x1D })

def tileKindCode : TileBody → Nat
  | .photo .. => 0 | .price .. => 1 | .panel => 2

/-- A tile record of 39 bytes; fields its kind or its presence bytes leave out are zero bytes (section 11.8). -/
def encodeTile (page id : Nat) (t : TileRec) : List Byte :=
  put8 page ++ put8 id ++ put8 (tileKindCode t.body) ++ putS16 t.x ++ putS16 t.y ++ put16 t.w ++ put16 t.h ++ [t.z] ++
  (match t.item with
   | none => zeros 3
   | some i => putFlag true ++ put16 i) ++
  (match t.body with
   | .photo (some i) ox oy => putFlag true ++ put8 i ++ putS16 ox ++ putS16 oy
   | .photo none ox oy => zeros 2 ++ putS16 ox ++ putS16 oy
   | _ => zeros 6) ++
  (match t.fill with
   | none => zeros 5
   | some f => putFlag true ++ putColor f.color ++ [f.opacity]) ++
  [t.opacity] ++ put8 (showWhenCode t.showWhen) ++ put8 (treatmentCode t.treatment) ++ [t.blink] ++
  (match t.body with
   | .price s =>
     put8 s.font ++ putColor s.ink ++ put8 (alignCode s.align) ++ [s.pad] ++ put16 s.textTop ++ put8 s.tracking
   | _ => zeros 9)

/-! ### Schedule, stock, settings and the other payloads (sections 11.6 and 11.7) -/

/-- A schedule entry (R21). -/
def readSchedEntry (p : List Byte) (o : Nat) : Option SchedEntry := do
  guard (u16 p o ≤ 1439 ∧ u8 p (o + 2) < Config.pageCount ∧ u8 p (o + 3) ≤ 3)
  some ⟨u16 p o, u8 p (o + 2), u8 p (o + 3), byteAt p (o + 4)⟩

/-- The start minutes rise strictly along the list (R21). -/
def strictlyAscending (l : List SchedEntry) : Bool :=
  match l with
  | [] => true
  | e :: rest => rest.all (fun f => e.start < f.start) && strictlyAscending rest

/-- The schedule of a SCHED_PUT payload, or none where R22 refuses OUT_OF_RANGE. -/
def parseSchedule (p : List Byte) : Option (List SchedEntry) := do
  guard (u8 p 0 ≤ 16)
  let entries ← (List.range (u8 p 0)).mapM fun k => readSchedEntry p (1 + 5 * k)
  guard (strictlyAscending entries = true)
  some entries

/-- A STOCK pair: an item id and a state (R24). -/
def readStockPair (p : List Byte) (o : Nat) : Option (Nat × Stock) := do
  guard (u16 p o < Config.itemIds)
  let state ← readStock (u8 p (o + 2))
  some (u16 p o, state)

/-- The pairs of a STOCK payload, or none where R24 refuses OUT_OF_RANGE. -/
def parseStock (p : List Byte) : Option (List (Nat × Stock)) := do
  guard (1 ≤ u8 p 0 ∧ u8 p 0 ≤ 48)
  (List.range (u8 p 0)).mapM fun k => readStockPair p (1 + 3 * k)

/-- The five enable flags of an audit mask. -/
def readMask (p : List Byte) (o : Nat) : Option AuditMask := do
  let c1 ← readFlag (byteAt p o)
  let c2 ← readFlag (byteAt p (o + 1))
  let c3 ← readFlag (byteAt p (o + 2))
  let c4 ← readFlag (byteAt p (o + 3))
  let c5 ← readFlag (byteAt p (o + 4))
  some ⟨c1, c2, c3, c4, c5⟩

/-- The record of a CONFIG_PUT payload, or none where R185 refuses OUT_OF_RANGE. -/
def parseSettings (p : List Byte) : Option NodeSettings := do
  guard (u16 p 0 ≤ 8191 ∧ u16 p 2 ≤ 4095)
  guard (1 ≤ u16 p 4 ∧ u16 p 4 ≤ 2048 ∧ 1 ≤ u16 p 6 ∧ u16 p 6 ≤ 2048)
  guard (24 ≤ u8 p 11 ∧ u8 p 11 ≤ 60)
  guard (20 ≤ u8 p 12 ∧ u8 p 12 ≤ 200)
  let policy ← readPolicy (u8 p 13)
  let mask ← readMask p 14
  guard (1 ≤ u8 p 20)
  some
    { vx := u16 p 0, vy := u16 p 2, vw := u16 p 4, vh := u16 p 6, fill := colorAt p 8, rate := u8 p 11,
      timeout := u8 p 12, policy := policy, mask := mask, dim := byteAt p 19, fadeStep := byteAt p 20,
      defaultTarget := byteAt p 21 }

/-- The settings as in CONFIG_PUT, 22 bytes (section 11.8). -/
def encodeSettings (n : NodeSettings) : List Byte :=
  put16 n.vx ++ put16 n.vy ++ put16 n.vw ++ put16 n.vh ++ putColor n.fill ++ put8 n.rate ++ put8 n.timeout ++
    put8 (policyCode n.policy) ++ putFlag n.mask.c1 ++ putFlag n.mask.c2 ++ putFlag n.mask.c3 ++ putFlag n.mask.c4 ++
    putFlag n.mask.c5 ++ [n.dim, n.fadeStep, n.defaultTarget]

/-- The channels of GAMMA_PUT (section 11.6). -/
inductive GammaChannel where
  | red | green | blue
deriving DecidableEq, Repr

def readChannel : Nat → Option GammaChannel
  | 0 => some .red | 1 => some .green | 2 => some .blue | _ => none

/-- The channel, start index and entries of a GAMMA_PUT payload, or none where R159 refuses OUT_OF_RANGE. -/
def parseGamma (p : List Byte) : Option (GammaChannel × Nat × List PanelCode) := do
  let channel ← readChannel (u8 p 0)
  guard (1 ≤ u8 p 3 ∧ u8 p 3 ≤ 96 ∧ u16 p 1 ≤ 255 ∧ u16 p 1 + u8 p 3 ≤ 256)
  let entries ← (List.range (u8 p 3)).mapM fun k => do
    guard (u16 p (4 + 2 * k) ≤ 1023)
    some (BitVec.ofNat 10 (u16 p (4 + 2 * k)))
  some (channel, u16 p 1, entries)

/-- The slot and new content of a HIGHLIGHT payload, or none where R133 refuses OUT_OF_RANGE. -/
def parseHighlight (p : List Byte) : Option (Nat × Option Highlight) := do
  guard (u8 p 0 ≤ 1)
  match u8 p 1 with
  | 0 => do
    guard (u8 p 2 < Config.tilesPerPage ∧ u8 p 3 ≤ 31 ∧ 1 ≤ u8 p 4 ∧ u8 p 4 ≤ 16)
    some (u8 p 0, some
      { tile := u8 p 2, margin := u8 p 3, thickness := u8 p 4, color := colorAt p 5, blink := byteAt p 8 })
  | 1 => some (u8 p 0, none)
  | _ => none

/-- The override a FORCE payload leaves, or none where R57 refuses OUT_OF_RANGE. -/
def parseForce (p : List Byte) : Option (Option Override) :=
  match u8 p 0 with
  | 0 => do
    guard (u8 p 1 < Config.pageCount ∧ u8 p 2 ≤ 3)
    some (some ⟨.untilRelease, u8 p 1, u8 p 2⟩)
  | 1 => do
    guard (u8 p 1 < Config.pageCount ∧ u8 p 2 ≤ 3)
    some (some ⟨.untilBoundary, u8 p 1, u8 p 2⟩)
  | 2 => some none
  | _ => none

/-- The backlight override a BACKLIGHT payload leaves, or none where R164 refuses OUT_OF_RANGE. -/
def parseBacklight (p : List Byte) : Option (Option Byte) :=
  match u8 p 0 with
  | 0 => some (some (byteAt p 1))
  | 1 => some none
  | _ => none

/-- The pixels an ACTIVE line carries after its kind byte: three bytes each, from canvas column 0 (section 11.2). One
or two bytes left over at the end are no pixel (assumption 10). -/
def pixelsOf : List Byte → List Color
  | r :: g :: b :: rest => ⟨r, g, b⟩ :: pixelsOf rest
  | _ => []

end Sys2Proof.Machine
end

