-- ==== Sys2Proof/Machine/Ops.lean ====
section
/-! DEFINITION. The named operations over tables, picture memory and the node's state that the meanings share. -/

namespace Sys2Proof.Machine

/-! ### Sparse tables and per-column values -/

/-- The record a table holds for a key, if any. -/
def tget {α : Type} : Table α → Nat → Option α
  | [], _ => none
  | (k, v) :: t, i => if k = i then some v else tget t i

/-- Places a record for a key, replacing any record of that key. -/
def tput {α : Type} : Table α → Nat → α → Table α
  | [], i, a => [(i, a)]
  | (k, v) :: t, i, a =>
    if i < k then (i, a) :: (k, v) :: t
    else if i = k then (i, a) :: t
    else (k, v) :: tput t i a

/-- Removes a key's record. -/
def tdrop {α : Type} (t : Table α) (i : Nat) : Table α := t.filter fun e => e.1 != i

/-- The keys rise strictly. -/
def sortedKeys {α : Type} : Table α → Bool
  | [] => true
  | (k, _) :: t => t.all (fun e => k < e.1) && sortedKeys t

/-- The value for column (or font) 0–3. -/
def columnGet {α : Type} (p : PerColumn α) (c : Nat) : α :=
  match c with
  | 0 => p.c0 | 1 => p.c1 | 2 => p.c2 | _ => p.c3

/-- Sets the value for column 0–3. -/
def columnSet {α : Type} (p : PerColumn α) (c : Nat) (a : α) : PerColumn α :=
  match c with
  | 0 => { p with c0 := a } | 1 => { p with c1 := a } | 2 => { p with c2 := a } | _ => { p with c3 := a }

/-! ### Picture memory (R87) -/

/-- What a byte of picture memory holds. -/
def memRead (m : List Host.Cell) (a : Nat) : Byte := (tget m a).getD Config.unlistedByte

/-- Writes one byte of picture memory and keeps the canonical form; there is no byte at or beyond `pictureBytes`. -/
def memWrite (m : List Host.Cell) (a : Nat) (b : Byte) : List Host.Cell :=
  if a < Config.pictureBytes then
    if b = Config.unlistedByte then tdrop m a else tput m a b
  else m

/-- The canonical form of picture memory: addresses strictly rising and inside the space, no entry equal to what an
unlisted byte reads as. -/
def Memory.wf (m : List Host.Cell) : Bool :=
  sortedKeys m && m.all fun c => c.1 < Config.pictureBytes && c.2 != Config.unlistedByte

/-- The pixel whose red byte is at an address. -/
def readPixel (m : List Host.Cell) (a : Nat) : Color := ⟨memRead m a, memRead m (a + 1), memRead m (a + 2)⟩

def writePixel (m : List Host.Cell) (a : Nat) (c : Color) : List Host.Cell :=
  memWrite (memWrite (memWrite m a c.r) (a + 1) c.g) (a + 2) c.b

/-- ceil(n / 32). -/
def blocksAcross (n : Nat) : Nat := (n + (Config.blockSide - 1)) / Config.blockSide

/-- The address of photo pixel (px, py) (R87). A block list that is too short names no block. -/
def photoAddress (r : PhotoRec) (px py : Nat) : Nat :=
  ((r.blocks.getD ((py / Config.blockSide) * blocksAcross r.w + px / Config.blockSide) Config.blockCount
      * Config.blockSide + py % Config.blockSide) * Config.blockSide + px % Config.blockSide) * 3

def photoPixel (m : List Host.Cell) (r : PhotoRec) (px py : Nat) : Color := readPixel m (photoAddress r px py)

/-- Writes a run of pixels into photo row `py` from column `px` on. -/
def writePhotoRow (r : PhotoRec) (py : Nat) : Nat → List Color → List Host.Cell → List Host.Cell
  | _, [], m => m
  | px, c :: cs, m => writePhotoRow r py (px + 1) cs (writePixel m (photoAddress r px py) c)

/-! ### Colours -/

/-- The luma (77R + 150G + 29B) div 256 (R97, R127). -/
def luma (c : Color) : Nat := (77 * c.r.toNat + 150 * c.g.toNat + 29 * c.b.toNat) / 256

/-! ### Events (R176) -/

/-- The set with an event raised; raising a raised event changes nothing. -/
def EventSet.raise (e : EventSet) : Event → EventSet
  | .packetCrc => { e with packetCrc := true }
  | .intakeOverrun => { e with intakeOverrun := true }
  | .returnCrc => { e with returnCrc := true }
  | .linkChanged => { e with linkChanged := true }
  | .panelChanged => { e with panelChanged := true }
  | .takeDone => { e with takeDone := true }
  | .takeCancelled => { e with takeCancelled := true }
  | .auditDone => { e with auditDone := true }
  | .captureDone => { e with captureDone := true }
  | .captureFailed => { e with captureFailed := true }

/-- Raises an event of the node. -/
def State.raise (s : State) (e : Event) : State :=
  { s with lane := { s.lane with events := s.lane.events.raise e } }

/-- Raises an event when its cause has occurred. -/
def State.raiseIf (s : State) (cause : Bool) (e : Event) : State := if cause then s.raise e else s

/-! ### The ports -/

/-- The state at the beginning of a command: nothing has yet left the part in it. -/
def State.begin (s : State) : State := { s with out := noOutputs }

/-- The pins stand at these levels. -/
def State.latch (s : State) (p : Pins) : State := { s with pins := p }

/-- The through port repeats a symbol of the input stream (R168). -/
def State.repeatThrough (s : State) (x : StreamSymbol) : State :=
  { s with out := { s.out with through := s.out.through ++ [x] } }

/-- The through port repeats the bytes of a line cut short, if there was one (R168). -/
def State.repeatCut (s : State) : Option (List Byte) → State
  | none => s
  | some bs => s.repeatThrough (.line bs)

/-- The panel port carries a symbol while the panel is PRESENT, and nothing while it is ABSENT (R160, R162). -/
def State.drive (s : State) (x : PanelSymbol) : State :=
  match s.output.panel with
  | .present => { s with out := { s.out with panel := s.out.panel ++ [x] } }
  | .absent => s

/-- The backlight output's duty in 255ths (R165); 0 while RESETn is asserted (R193). -/
def backlightDuty (s : State) : Nat := if s.resetn then 0 else s.output.level.toNat

/-- The node holds its downstream neighbour off: its receive buffer holds a record (R179), or RESETn is asserted (R193). -/
def holdsDownstream (s : State) : Bool := s.resetn || s.lane.buffer.isSome

/-! ### Timer periods (R142–R144, R148) -/

/-- The header timeout in milliseconds: of the snapshot of the frame in progress, or the default before the first frame
start after a reset. -/
def headerTimeoutMs (s : State) : Nat :=
  match s.frame with
  | some f => f.snap.settings.timeout
  | none => defaultSettings.timeout

/-- The local frame rate in frames per second, likewise; the local frame period is its inverse. -/
def localFrameRate (s : State) : Nat :=
  match s.frame with
  | some f => f.snap.settings.rate
  | none => defaultSettings.rate

/-- Local lines per second of the frame in progress: the local line period is (1 / rate) ÷ vh seconds (R144). -/
def localLineRate (s : State) : Nat :=
  match s.frame with
  | some f => f.snap.settings.rate * f.snap.settings.vh
  | none => 0

/-! ### Reference and use counts (R45) -/

/-- A photo's live reference count: the items whose default photo it is, plus the PHOTO tiles that carry it as their own. -/
def photoReferences (b : Bank) (id : Nat) : Nat :=
  (b.items.filter fun e => e.2.photo = some id).length +
  (b.tiles.filter fun e =>
    match e.2.body with
    | .photo own _ _ => own = some id
    | _ => false).length

/-- A font's use count: the PRICE tiles whose price style names it. -/
def fontUses (b : Bank) (font : Nat) : Nat :=
  (b.tiles.filter fun e =>
    match e.2.body with
    | .price style => style.font = font
    | _ => false).length

/-- Every photo's live reference count. -/
def allReferences (b : Bank) : List Nat := (List.range Config.photoIds).map (photoReferences b)

def allFontUses (b : Bank) : PerColumn Nat := ⟨fontUses b 0, fontUses b 1, fontUses b 2, fontUses b 3⟩

/-- The recount of R45 from a bank. -/
def State.recount (s : State) (b : Bank) : State :=
  { s with
    photos := { s.photos with refCounts := allReferences b }
    glyphs := { s.glyphs with useCounts := allFontUses b } }

/-! ### The outcome of a taken command (R172) -/

/-- What carrying out a command leaves: the result code, the reply data and the state. -/
structure Taken where
  result : ResultCode
  data : List Byte
  state : State

/-- A refusal: no data and no change (R175). -/
def refuse (r : ResultCode) (s : State) : Taken := ⟨r, [], s⟩

/-- Done, with no data. -/
def done (s : State) : Taken := ⟨.ok, [], s⟩

/-- Done, with data. -/
def doneWith (data : List Byte) (s : State) : Taken := ⟨.ok, data, s⟩

end Sys2Proof.Machine
end

