-- ==== Sys2Proof/Machine/Flags.lean ====
section
/-! DEFINITION. The reply summary's event bits and levels (R176, R177, section 11.4) and the per-tile frame flags (R136). -/

namespace Sys2Proof.Machine

/-- No flag set. -/
def noTileFlags : TileFlags := ⟨false, false, false, false, false⟩

/-- OVERFLOW_SEEN: a tile of the last completed frame kept OVERFLOW (R138). -/
def overflowSeen (s : State) : Bool :=
  match s.kept with
  | none => false
  | some k => k.flags.any fun e => e.2.overflow

/-- BUDGET_SHORT: a tile of the last completed frame kept BUDGET_SHORT (R138). -/
def budgetShortSeen (s : State) : Bool :=
  match s.kept with
  | none => false
  | some k => k.flags.any fun e => e.2.budgetShort

/-- The ten event bits, bit 23 of the summary first. -/
def eventBits (e : EventSet) : BitVec 10 :=
  BitVec.ofBool e.packetCrc ++ BitVec.ofBool e.intakeOverrun ++ BitVec.ofBool e.returnCrc ++
  BitVec.ofBool e.linkChanged ++ BitVec.ofBool e.panelChanged ++ BitVec.ofBool e.takeDone ++
  BitVec.ofBool e.takeCancelled ++ BitVec.ofBool e.auditDone ++ BitVec.ofBool e.captureDone ++
  BitVec.ofBool e.captureFailed

/-- The levels, bits 13 to 0 of the summary, read when the record is built (R177). -/
def levelBits (s : State) : BitVec 14 :=
  BitVec.ofNat 2 (linkCode s.timing.link) ++ BitVec.ofNat 3 (stagedCode s.tables.stagedState) ++
  BitVec.ofBool (s.output.panel = .present) ++ BitVec.ofBool s.lane.conflict ++ BitVec.ofBool (overflowSeen s) ++
  BitVec.ofBool (budgetShortSeen s) ++ BitVec.ofBool s.tables.pendingTake.isSome ++ (0 : BitVec 4)

/-- The summary of a reply record (section 11.4). -/
def summary (s : State) : BitVec 24 := eventBits s.lane.events ++ levelBits s

/-- The five kept flags as QUERY TILE sends them, in bits 4 to 0 (section 11.8). DESIGN CHOICE, unsafe (assumption 26):
bits 7 to 5, which section 11.8 does not give, are sent as 0. -/
def tileFlagBits (f : TileFlags) : Byte :=
  (0 : BitVec 3) ++ BitVec.ofBool f.missingRef ++ BitVec.ofBool f.notReady ++ BitVec.ofBool f.overflow ++
  BitVec.ofBool f.missingGlyph ++ BitVec.ofBool f.budgetShort

/-- The kept flags for a tile key: clear when no frame has completed and for a key that was not on its page (R139). -/
def keptFlagsFor (s : State) (page id : Nat) : TileFlags :=
  match s.kept with
  | none => noTileFlags
  | some k => if k.page = page then (tget k.flags id).getD noTileFlags else noTileFlags

end Sys2Proof.Machine
end

