-- ==== Sys2Proof/Machine/Pricing.lean ====
section
/-! DEFINITION. The Price Resolver: offered status and availability (R60–R62), the price arithmetic (R67–R73), the glyph
sequence (R74–R77) and the text plan (R78–R81). -/

namespace Sys2Proof.Machine

/-! ### Offered and available -/

/-- The base price of a SIMPLE item in a column, if it has a record that is SIMPLE with that position present. -/
def basePrice (b : Bank) (column id : Nat) : Option Nat :=
  match tget b.items id with
  | some ⟨.simple prices, _⟩ => columnGet prices column
  | _ => none

/-- Whether an item is offered in a column: a SIMPLE item when its position is present (R60), a COMBO when every component
is a SIMPLE item offered in the column (R61). -/
def offered (b : Bank) (column : Nat) (r : ItemRec) : Bool :=
  match r.body with
  | .simple prices => (columnGet prices column).isSome
  | .combo components _ => components.all fun c => (basePrice b column c.item).isSome

/-- The stock map entry of an item id. -/
def stockOf (stock : List Stock) (id : Nat) : Stock := stock.getD id .available

/-- Whether an item is available: offered, with its own and each component's stock entry AVAILABLE (R62). -/
def available (b : Bank) (column : Nat) (stock : List Stock) (id : Nat) (r : ItemRec) : Bool :=
  offered b column r && (stockOf stock id = .available) &&
  (match r.body with
   | .simple _ => true
   | .combo components _ => components.all fun c => stockOf stock c.item = .available)

/-- The status of every live item; an id with no entry is MISSING. -/
def itemStatuses (b : Bank) (column : Nat) (stock : List Stock) : Table ItemStatus :=
  b.items.map fun e => (e.1, ⟨offered b column e.2, available b column stock e.1 e.2⟩)

/-! ### The stages -/

/-- Stage A, adjust (R68). -/
def adjust (price factor : Nat) : Nat := (price * factor + 500) / 1000

/-- Stage B, combo (R69): the sum of quantity times adjusted price, less the discount, not below 0. -/
def comboValue (b : Bank) (column : Nat) (components : List Component) (discount : Nat) : Nat :=
  (components.map fun c => c.quantity *
    adjust ((basePrice b column c.item).getD 0) (columnGet b.factors column)).sum - discount

/-- Stage C, tax (R70). -/
def addTax (f : PriceFormat) (v : Nat) : Nat :=
  if f.taxInclusive then v + (v * f.taxRate + 5000) / 10000 else v

/-- Stage D, step (R71, R72). -/
def roundStep (f : PriceFormat) (v : Nat) : Nat :=
  match f.rounding with
  | .exact => v
  | .nearest => (v + f.step / 2) / f.step * f.step
  | .up => (v + f.step - 1) / f.step * f.step
  | .ending => if v ≤ f.ending then f.ending else (v - f.ending + f.step - 1) / f.step * f.step + f.ending

/-- The value that enters stage C: the adjusted price of a SIMPLE item, or the stage B value of a COMBO. -/
def untaxedValue (b : Bank) (column : Nat) (r : ItemRec) : Nat :=
  match r.body with
  | .simple prices => adjust ((columnGet prices column).getD 0) (columnGet b.factors column)
  | .combo components discount => comboValue b column components discount

/-- The stage D result of an offered item. -/
def priceValue (b : Bank) (column : Nat) (r : ItemRec) : Nat :=
  roundStep b.format (addTax b.format (untaxedValue b column r))

/-! ### The glyph sequence -/

/-- The decimal digits of a number with no leading zeros, least significant digit last; the first argument bounds the
number of digits after the first. -/
def decimalDigits : Nat → Nat → List Nat
  | 0, v => [v % 10]
  | fuel + 1, v => if v < 10 then [v] else decimalDigits fuel (v / 10) ++ [v % 10]

/-- The slot of the decimal mark (R96). -/
def decimalMark : Nat := 10

/-- The slot of the currency symbol (R96). -/
def currencyMark : Nat := 11

/-- The digits and the decimal mark of a value (R74–R76). A value within the limit has at most six digits. -/
def digitGlyphs (f : PriceFormat) (v : Nat) : List Nat :=
  match f.minor with
  | .zero => decimalDigits 5 v
  | .two =>
    if f.shortForm ∧ v % 100 = 0 then decimalDigits 5 (v / 100)
    else decimalDigits 5 (v / 100) ++ [decimalMark, v % 100 / 10, v % 10]

/-- The glyph sequence of a value (R77). -/
def glyphSequence (f : PriceFormat) (v : Nat) : List Nat :=
  (if f.symbol = .before then [currencyMark] else []) ++ digitGlyphs f v ++
  (if f.symbol = .after then [currencyMark] else [])

/-- The price cache entry of an item of a bank in a column (R65, R66, R73). -/
def priceEntry (b : Bank) (column : Nat) (r : ItemRec) : PriceEntry :=
  if offered b column r then
    if priceValue b column r ≤ Config.priceLimit then
      .priced (priceValue b column r) (glyphSequence b.format (priceValue b column r))
    else .overflow (priceValue b column r)
  else .notOffered

/-- The price cache of a frame: one entry for each live item (R65). -/
def priceCache (b : Bank) (column : Nat) : Table PriceEntry := b.items.map fun e => (e.1, priceEntry b column e.2)

/-! ### The text plan -/

/-- The text width Wt (R80). -/
def textWidth (width : Nat → Nat) (tracking : Nat) (glyphs : List Nat) : Nat :=
  (glyphs.map width).sum + tracking * (glyphs.length - 1)

/-- The start column s of a text that fits (R81). -/
def startColumn (style : PriceStyle) (w wt : Nat) : Nat :=
  match style.align with
  | .left => style.pad.toNat
  | .right => w - style.pad.toNat - wt
  | .center => (w - wt) / 2

/-- The text plan of a PRICE tile of width `w` (R78): `entry` is the item's cache entry, none for a MISSING item;
`loaded` and `width` read the twelve slots of the tile's font. -/
def textPlan (loaded : Nat → Bool) (width : Nat → Nat) (entry : Option PriceEntry) (style : PriceStyle) (w : Nat) :
    TextPlan :=
  match entry with
  | none => .noItem
  | some .notOffered => .noPrice
  | some (.overflow _) => .overflow
  | some (.priced _ glyphs) =>
    if glyphs.any fun g => !loaded g then .noGlyph
    else if w < textWidth width style.tracking glyphs + 2 * style.pad.toNat then .tooWide
    else .text (startColumn style w (textWidth width style.tracking glyphs)) (textWidth width style.tracking glyphs)

/-! ### Glyph slots -/

/-- The place of a slot among the 48. -/
def slotIndex (font slot : Nat) : Nat := font * 12 + slot

def slotOf (slots : List GlyphSlot) (font slot : Nat) : GlyphSlot := slots.getD (slotIndex font slot) .empty

def slotLoaded : GlyphSlot → Bool
  | .loaded .. => true
  | _ => false

def slotWidth : GlyphSlot → Nat
  | .loaded w _ _ => w
  | _ => 0

end Sys2Proof.Machine
end

