-- ==== Sys2Proof/Machine/Context.lean ====
section
/-! DEFINITION. The Frame Context Unit: active entry (R54), page and column (R55), the UNTIL_BOUNDARY comparison (R58) and the
snapshot (R49). -/

namespace Sys2Proof.Machine

/-- The last entry of an ascending list whose start is not above the minute, with its position. -/
def lastStarted (minute : Nat) : Nat → List SchedEntry → Option (Nat × SchedEntry)
  | _, [] => none
  | i, e :: rest =>
    match lastStarted minute (i + 1) rest with
    | some r => some r
    | none => if e.start ≤ minute then some (i, e) else none

/-- The last entry of a list with its position. -/
def lastEntry : Nat → List SchedEntry → Option (Nat × SchedEntry)
  | _, [] => none
  | i, [e] => some (i, e)
  | i, _ :: rest => lastEntry (i + 1) rest

/-- The active entry (R54). -/
def activeEntry (timeValid : Bool) (minute : Nat) (schedule : List SchedEntry) : Option (Nat × SchedEntry) :=
  if timeValid then
    match lastStarted minute 0 schedule with
    | some r => some r
    | none => lastEntry 0 schedule
  else none

/-- The record of an active entry the next frame compares against: start, page and column (R48). -/
def prevOf (active : Option (Nat × SchedEntry)) : Option PrevEntry :=
  active.map fun a => ⟨a.2.start, a.2.page, a.2.column⟩

/-- The override after the UNTIL_BOUNDARY comparison of a frame start (R58). -/
def overrideAfter (c : FrameContext) (active : Option (Nat × SchedEntry)) : Option Override :=
  match c.override with
  | some o => if o.mode = .untilBoundary ∧ prevOf active ≠ c.prev then none else some o
  | none => none

/-- The frame's page (R55). -/
def framePage (override : Option Override) (active : Option (Nat × SchedEntry)) : Nat :=
  match override, active with
  | some o, _ => o.page
  | none, some a => a.2.page
  | none, none => 0

/-- The frame's price column (R55). -/
def frameColumn (override : Option Override) (active : Option (Nat × SchedEntry)) : Nat :=
  match override, active with
  | some o, _ => o.column
  | none, some a => a.2.column
  | none, none => 0

/-- The schedule backlight target (R55). -/
def scheduleTarget (settings : NodeSettings) (active : Option (Nat × SchedEntry)) : Byte :=
  match active with
  | some a => a.2.target
  | none => settings.defaultTarget

/-- The time-of-day minute (00_scope.md, Time of day). -/
def minuteOfDay (t : FrameTiming) : Nat := t.hour * 60 + t.minute

/-- The text plan of every PRICE tile of a page (R78), from the cache, the snapshot's glyph states and the widths the
Glyph Store holds (R79). -/
def textPlans (b : Bank) (page : Nat) (cache : Table PriceEntry) (glyphs : List Bool) (slots : List GlyphSlot) :
    Table TextPlan :=
  b.tiles.filterMap fun e =>
    if e.1 / Config.tilesPerPage = page then
      match e.2.body with
      | .price style =>
        some (e.1 % Config.tilesPerPage,
          textPlan (fun g => glyphs.getD (slotIndex style.font g) false)
            (fun g => slotWidth (slotOf slots style.font g))
            (e.2.item.bind (tget cache)) style e.2.w)
      | _ => none
    else none

/-- The snapshot a frame start fixes (R49), read from a state whose live bank is the live bank of the frame (R50), whose
frame number is the new frame's and whose clock has been set by the header that made the frame start, if any (R155). -/
def snapshotOf (s : State) : Snapshot :=
  let bank := s.tables.live
  let active := activeEntry s.timing.timeValid (minuteOfDay s.timing) bank.schedule
  let override := overrideAfter s.context active
  let column := frameColumn override active
  let page := framePage override active
  let cache := priceCache bank column
  let glyphs := s.glyphs.slots.map slotLoaded
  { bank := bank
    number := s.timing.number
    minute := minuteOfDay s.timing
    timeValid := s.timing.timeValid
    active := active
    page := page
    column := column
    schedTarget := scheduleTarget s.context.settings active
    status := itemStatuses bank column s.tables.stock
    cache := cache
    plans := textPlans bank page cache glyphs s.glyphs.slots
    photos := s.photos.directory.map fun e => (e.1, e.2.state)
    glyphs := glyphs
    high0 := s.context.high0
    high1 := s.context.high1
    settings := s.context.settings
    gamma := s.output.gamma
    target := s.output.override.getD (scheduleTarget s.context.settings active) }

/-- The Frame Context Unit after it has fixed a snapshot: the override as R58 leaves it, and the active entry recorded for
the next frame's comparison. -/
def contextAfter (c : FrameContext) (active : Option (Nat × SchedEntry)) : FrameContext :=
  { c with override := overrideAfter c active, prev := prevOf active }

end Sys2Proof.Machine
end

