-- ==== Sys2Proof/Machine/Compose.lean ====
section
/-! DEFINITION. The Line Compositor: the frame tile list (R117–R121), blending (R122–R127), the line budget (R128–R130),
the highlight rings (R134, R135) and the output lines (R113–R116, R158, R160). -/

namespace Sys2Proof.Machine

/-! ### The frame tile list -/

/-- A tile's rect cut to a screen of vw columns and vh lines (R121). -/
def clipRect (t : TileRec) (vw vh : Nat) : ClippedRect :=
  { x0 := min t.x.toNat vw, x1 := min (t.x + t.w).toNat vw, y0 := min t.y.toNat vh, y1 := min (t.y + t.h).toNat vh }

/-- Whether something with a blink half-period is visible in a frame (R119). -/
def blinkVisible (number : FrameNo) (half : Byte) : Bool := half = 0 || number.toNat / half.toNat % 2 = 0

/-- Whether a tile's item is MISSING in the snapshot. -/
def itemMissing (snap : Snapshot) (t : TileRec) : Bool :=
  match t.item with
  | none => false
  | some i => (tget snap.status i).isNone

/-- Whether a tile counts as available: by its item's status, with no item or a MISSING item as available (R62). -/
def tileAvailable (snap : Snapshot) (t : TileRec) : Bool :=
  match t.item with
  | none => true
  | some i =>
    match tget snap.status i with
    | none => true
    | some status => status.available

/-- The shown field (R118). -/
def tileShown (isAvailable : Bool) (t : TileRec) : Bool :=
  if isAvailable then t.showWhen != .soldOut
  else t.showWhen != .available && t.treatment != .hide

/-- The dimmed field (R118). -/
def tileDimmed (isAvailable : Bool) (t : TileRec) : Bool :=
  !isAvailable && tileShown isAvailable t && t.treatment = .dim

/-- The photo a PHOTO tile selects: its own, else its item's default photo (R120). -/
def selectedPhoto (b : Bank) (t : TileRec) : Option Nat :=
  match t.body with
  | .photo (some own) _ _ => some own
  | .photo none _ _ => t.item.bind fun i => (tget b.items i).bind fun r => r.photo
  | _ => none

/-- The content and the four flags a tile has at the frame start (R120, R136). -/
def tileContent (snap : Snapshot) (id : Nat) (t : TileRec) : Content × TileFlags :=
  if itemMissing snap t then (.none, { noTileFlags with missingRef := true })
  else
    match t.body with
    | .panel => (.none, noTileFlags)
    | .price _ =>
      match tget snap.plans id with
      | some (.text start _) => (.text start, noTileFlags)
      | some .overflow => (.none, { noTileFlags with overflow := true })
      | some .tooWide => (.none, { noTileFlags with overflow := true })
      | some .noGlyph => (.none, { noTileFlags with missingGlyph := true })
      | _ => (.none, noTileFlags)
    | .photo .. =>
      match selectedPhoto snap.bank t with
      | none => (.none, noTileFlags)
      | some photo =>
        match tget snap.photos photo with
        | none => (.none, { noTileFlags with missingRef := true })
        | some .opened => (.none, { noTileFlags with notReady := true })
        | some .ready => (.photo photo, noTileFlags)

/-- A frame tile list entry (R117). -/
def frameTile (snap : Snapshot) (id : Nat) (t : TileRec) : TileEntry :=
  { id := id
    tile := t
    clip := clipRect t snap.settings.vw snap.settings.vh
    shown := tileShown (tileAvailable snap t) t
    blinkVisible := blinkVisible snap.number t.blink
    dimmed := tileDimmed (tileAvailable snap t) t
    content := (tileContent snap id t).1
    flags := (tileContent snap id t).2 }

/-- The tiles of one page with their ids, in ascending tile id. -/
def pageTiles (b : Bank) (page : Nat) : Table TileRec :=
  b.tiles.filterMap fun e =>
    if e.1 / Config.tilesPerPage = page then some (e.1 % Config.tilesPerPage, e.2) else none

/-- Places a tile behind those of no higher z. -/
def insertByZ (e : Nat × TileRec) : Table TileRec → Table TileRec
  | [] => [e]
  | f :: rest => if e.2.z.toNat ≤ f.2.z.toNat then e :: f :: rest else f :: insertByZ e rest

/-- Draw order: ascending (z, tile id), from a list in ascending tile id (R14). -/
def drawOrder (tiles : Table TileRec) : Table TileRec := tiles.foldr insertByZ []

/-- The frame tile list (R117). -/
def frameTiles (snap : Snapshot) : List TileEntry :=
  (drawOrder (pageTiles snap.bank snap.page)).map fun e => frameTile snap e.1 e.2

/-! ### The line budget -/

/-- Whether a tile is active on an output line (R121). -/
def activeOn (e : TileEntry) (n : Nat) : Bool :=
  e.shown && e.blinkVisible && e.clip.x0 < e.clip.x1 && e.clip.y0 ≤ n && n < e.clip.y1

/-- The demand on line n of a photo of W × H placed at a tile's origin plus its anchor: the screen x that lie in the tile's
rect, the screen and the placed photo (R37, R128). -/
def placedDemand (clip : ClippedRect) (t : TileRec) (ox oy : Int) (w h n : Nat) : Nat :=
  if clip.y0 ≤ n ∧ n < clip.y1 ∧ 0 ≤ (n : Int) - t.y - oy ∧ (n : Int) - t.y - oy < h then
    (min (clip.x1 : Int) (t.x + ox + w) - max (clip.x0 : Int) (t.x + ox)).toNat
  else 0

/-- The demand of a frame tile list entry on a line (R128). -/
def demandOn (directory : Table PhotoRec) (e : TileEntry) (n : Nat) : Nat :=
  if activeOn e n then
    match e.content, e.tile.body with
    | .photo id, .photo _ ox oy =>
      match tget directory id with
      | some r => placedDemand e.clip e.tile ox oy r.w r.h n
      | none => 0
    | _, _ => 0
  else 0

/-- First fit in draw order (R129): each entry with whether it is degraded on the line, and the remainder. -/
def grantTiles (directory : Table PhotoRec) (n : Nat) : Nat → List TileEntry → List (TileEntry × Bool) × Nat
  | r, [] => ([], r)
  | r, e :: es =>
    if demandOn directory e n ≤ r then
      ((e, false) :: (grantTiles directory n (r - demandOn directory e n) es).1,
        (grantTiles directory n (r - demandOn directory e n) es).2)
    else ((e, true) :: (grantTiles directory n r es).1, (grantTiles directory n r es).2)

/-- The frame tile list with BUDGET_SHORT set on the entries degraded on a line (R130). -/
def markShort (granted : List (TileEntry × Bool)) : List TileEntry :=
  granted.map fun g => if g.2 then { g.1 with flags := { g.1.flags with budgetShort := true } } else g.1

/-! ### Blending -/

/-- One channel of a blend (R123). -/
def blendChannel (s d : Byte) (a : Nat) : Byte :=
  BitVec.ofNat 8 ((a * s.toNat + (255 - a) * d.toNat + 127) / 255)

/-- A blend of a source colour over the running colour at an effective alpha (R123). -/
def blend (s d : Color) (a : Nat) : Color := ⟨blendChannel s.r d.r a, blendChannel s.g d.g a, blendChannel s.b d.b a⟩

/-- The DIM transform (R127). -/
def dimColor (dim : Byte) (c : Color) : Color :=
  let v : Byte := BitVec.ofNat 8 ((luma c * dim.toNat + 127) / 255)
  ⟨v, v, v⟩

/-- A tile's source colour, through DIM when the tile is dimmed. -/
def sourceColor (snap : Snapshot) (dimmed : Bool) (c : Color) : Color :=
  if dimmed then dimColor snap.settings.dim c else c

/-- The effective alpha of a photo pixel (R125). -/
def photoAlpha (key : Option Color) (pixel : Color) (opacity : Byte) : Nat :=
  ((if key = some pixel then 0 else 255) * opacity.toNat + 127) / 255

/-- Whether a glyph's bitmap has ink at a column and line of its cell. -/
def inkOf (slot : GlyphSlot) (column line : Nat) : Bool :=
  match slot with
  | .loaded _ _ bitmap => (bitmap.getD line []).getD column false
  | _ => false

/-- Whether a text has ink at a column and line, its first glyph's left edge at `left` (R82). -/
def textInk (slots : List GlyphSlot) (font tracking : Nat) : List Nat → Nat → Nat → Nat → Bool
  | [], _, _, _ => false
  | g :: gs, left, column, line =>
    if left ≤ column ∧ column < left + slotWidth (slotOf slots font g) then
      inkOf (slotOf slots font g) (column - left) line
    else textInk slots font tracking gs (left + slotWidth (slotOf slots font g) + tracking) column line

/-- The glyph sequence the cache holds for an item, if it is printed. -/
def cachedGlyphs (cache : Table PriceEntry) (item : Option Nat) : List Nat :=
  match item.bind (tget cache) with
  | some (.priced _ glyphs) => glyphs
  | _ => []

/-- The content pixel of a tile at screen (x, n), with its effective alpha, if the content gives one there (R125, R126). -/
def contentPixel (s : State) (snap : Snapshot) (e : TileEntry) (n x : Nat) : Option (Color × Nat) :=
  match e.content, e.tile.body with
  | .photo id, .photo _ ox oy =>
    match tget s.photos.directory id with
    | none => none
    | some r =>
      let px := (x : Int) - e.tile.x - ox
      let py := (n : Int) - e.tile.y - oy
      if 0 ≤ px ∧ px < r.w ∧ 0 ≤ py ∧ py < r.h then
        let pixel := photoPixel s.photos.memory r px.toNat py.toNat
        some (pixel, photoAlpha r.key pixel e.tile.opacity)
      else none
  | .text start, .price style =>
    let line := (n : Int) - e.tile.y - style.textTop
    if 0 ≤ line ∧ textInk s.glyphs.slots style.font style.tracking (cachedGlyphs snap.cache e.tile.item) start
        ((x : Int) - e.tile.x).toNat line.toNat = true then
      some (style.ink, e.tile.opacity.toNat)
    else none
  | _, _ => none

/-- The running colour after one tile of the line (R122, R124, R130). -/
def drawTile (s : State) (snap : Snapshot) (n x : Nat) (d : Color) (g : TileEntry × Bool) : Color :=
  if activeOn g.1 n && g.1.clip.x0 ≤ x && x < g.1.clip.x1 then
    let filled :=
      match g.1.tile.fill with
      | some f => blend (sourceColor snap g.1.dimmed f.color) d f.opacity.toNat
      | none => d
    if g.2 then filled
    else
      match contentPixel s snap g.1 n x with
      | some c => blend (sourceColor snap g.1.dimmed c.1) filled c.2
      | none => filled
  else d

/-! ### Highlights -/

/-- Whether a pixel lies in the ring of a highlight round a tile's rect (R134). -/
def ringPixel (h : Highlight) (t : TileRec) (n x : Nat) : Bool :=
  let ox := t.x - h.margin
  let oy := t.y - h.margin
  let ow := t.w + 2 * h.margin
  let oh := t.h + 2 * h.margin
  (ox ≤ (x : Int) && (x : Int) < ox + ow && oy ≤ (n : Int) && (n : Int) < oy + oh) &&
  ((x : Int) < ox + h.thickness || ox + ow - h.thickness ≤ (x : Int) ||
   (n : Int) < oy + h.thickness || oy + oh - h.thickness ≤ (n : Int))

/-- The pixel after a highlight slot's ring: the slot's colour on a ring pixel of a slot that is set, whose tile is on the
page and that is blink visible (R135). -/
def drawRing (snap : Snapshot) (slot : Option Highlight) (n x : Nat) (d : Color) : Color :=
  match slot with
  | none => d
  | some h =>
    match tget snap.bank.tiles (tileKey snap.page h.tile) with
    | none => d
    | some t => if blinkVisible snap.number h.blink && ringPixel h t n x then h.color else d

/-! ### Output lines -/

/-- The pixel of a line: base, active tiles in draw order, slot 0's ring, slot 1's ring (R122, R135). -/
def linePixel (s : State) (snap : Snapshot) (granted : List (TileEntry × Bool)) (base : Nat → Color) (n x : Nat) :
    Color :=
  drawRing snap snap.high1 n x
    (drawRing snap snap.high0 n x (granted.foldl (drawTile s snap n x) (base x)))

/-- An output line (R113, R116). -/
def linePixels (s : State) (snap : Snapshot) (granted : List (TileEntry × Bool)) (base : Nat → Color) (n : Nat) :
    List Color :=
  (List.range snap.settings.vw).map (linePixel s snap granted base n)

/-- A pixel through the snapshot's gamma tables (R158). -/
def gammaPixel (g : GammaTables) (c : Color) : PanelPixel :=
  ⟨g.red.getD c.r.toNat 0, g.green.getD c.g.toNat 0, g.blue.getD c.b.toNat 0⟩

/-- The grants of an output line of the frame in progress (R129). -/
def lineGrants (s : State) (f : Frame) (n : Nat) : List (TileEntry × Bool) × Nat :=
  grantTiles s.photos.directory n Config.lineBudget f.tiles

/-- Composes output line n of the frame in progress over a base, hands it to the Output Stage and drives it. -/
def composeLine (s : State) (n : Nat) (base : Nat → Color) : State :=
  match s.frame with
  | none => s
  | some f =>
    let pixels := linePixels s f.snap (lineGrants s f n).1 base n
    let s1 : State :=
      { s with
        frame := some { f with tiles := markShort (lineGrants s f n).1, nextLine := n + 1 }
        out := { s.out with composed := s.out.composed ++ [⟨n, pixels⟩] } }
    s1.drive (.line n (pixels.map (gammaPixel f.snap.gamma)))

/-- Composes the next output line over the fill colour, if a line is left (R115). -/
def composeFillLine (s : State) : State :=
  match s.frame with
  | none => s
  | some f => if f.nextLine < f.snap.settings.vh then composeLine s f.nextLine (fun _ => f.snap.settings.fill) else s

/-- The base of an output line with an input line: the canvas pixel at column vx + x, or the fill colour where the line
gives none (R114, R167). -/
def canvasBase (settings : NodeSettings) (pixels : List Color) (x : Nat) : Color :=
  pixels.getD (settings.vx + x) settings.fill

end Sys2Proof.Machine
end

