-- ==== Sys2Proof/Machine/Audit.lean ====
section
/-! DEFINITION. The Audit Unit: the five checks (R34–R38) and their pacing by frame starts (R31, R32). -/

namespace Sys2Proof.Machine

/-! ### Check 1, REFERENCES -/

/-- The first fault of a tile's references (R34). -/
def tileReferenceFault (b : Bank) (directory : Table PhotoRec) (e : Nat × TileRec) : Option AuditFailure :=
  let page := e.1 / Config.tilesPerPage
  let id := e.1 % Config.tilesPerPage
  match e.2.item with
  | some i =>
    if (tget b.items i).isNone then some (.tile page id i) else photoFault page id
  | none => photoFault page id
where
  /-- The fault of a tile's own photo. -/
  photoFault (page id : Nat) : Option AuditFailure :=
    match e.2.body with
    | .photo (some p) _ _ => if (tget directory p).isNone then some (.tile page id p) else none
    | _ => none

/-- Whether a bank holds a SIMPLE record for an id. -/
def isSimple (b : Bank) (id : Nat) : Bool :=
  match tget b.items id with
  | some ⟨.simple _, _⟩ => true
  | _ => false

/-- The first fault of an item's references (R34). -/
def itemReferenceFault (b : Bank) (directory : Table PhotoRec) (e : Nat × ItemRec) : Option AuditFailure :=
  let components :=
    match e.2.body with
    | .combo components _ => components
    | .simple _ => []
  match components.find? fun c => !isSimple b c.item with
  | some c => some (.item e.1 c.item)
  | none =>
    match e.2.photo with
    | some p => if (tget directory p).isNone then some (.item e.1 p) else none
    | none => none

def checkReferences (b : Bank) (directory : Table PhotoRec) : Option AuditFailure :=
  match b.tiles.findSome? (tileReferenceFault b directory) with
  | some f => some f
  | none => b.items.findSome? (itemReferenceFault b directory)

/-! ### Check 2, PHOTOS_READY -/

/-- The photo names of a bank in the scan order of R34: tile photos, then item default photos. -/
def namedPhotos (b : Bank) : List Nat :=
  (b.tiles.filterMap fun e =>
    match e.2.body with
    | .photo own _ _ => own
    | _ => none) ++
  b.items.filterMap fun e => e.2.photo

def photoReady (directory : Table PhotoRec) (id : Nat) : Bool :=
  match tget directory id with
  | some r => r.state = .ready
  | none => false

def checkPhotosReady (b : Bank) (directory : Table PhotoRec) : Option AuditFailure :=
  ((namedPhotos b).find? fun id => !photoReady directory id).map .photo

/-! ### Check 3, PRICE_FIT -/

/-- The columns a page is tested in (R36). -/
def testedColumns (b : Bank) (page : Nat) : List Nat :=
  if b.schedule.any fun e => e.page = page then
    [0, 1, 2, 3].filter fun c => b.schedule.any fun e => e.page = page && e.column = c
  else [0]

/-- Whether a PRICE tile prints its price in a column, or has nothing to print there (R85). -/
def priceFits (b : Bank) (slots : List GlyphSlot) (t : TileRec) (style : PriceStyle) (column : Nat) : Bool :=
  match textPlan (fun g => slotLoaded (slotOf slots style.font g)) (fun g => slotWidth (slotOf slots style.font g))
      ((t.item.bind (tget b.items)).map (priceEntry b column)) style t.w with
  | .noItem | .noPrice | .text _ _ => true
  | .overflow | .noGlyph | .tooWide => false

def checkPriceFit (b : Bank) (slots : List GlyphSlot) : Option AuditFailure :=
  b.tiles.findSome? fun e =>
    match e.2.body with
    | .price style =>
      ((testedColumns b (e.1 / Config.tilesPerPage)).find? fun c => !priceFits b slots e.2 style c).map
        (.tile (e.1 / Config.tilesPerPage) (e.1 % Config.tilesPerPage))
    | _ => none

/-! ### Check 4, LINE_BUDGET -/

/-- The demand of a tile of a bank on a line, taken as shown (R37). -/
def auditDemand (b : Bank) (directory : Table PhotoRec) (vw vh n : Nat) (t : TileRec) : Nat :=
  match t.body with
  | .photo _ ox oy =>
    match (selectedPhoto b t).bind (tget directory) with
    | some r => placedDemand (clipRect t vw vh) t ox oy r.w r.h n
    | none => 0
  | _ => 0

def checkLineBudget (b : Bank) (directory : Table PhotoRec) (vw vh : Nat) : Option AuditFailure :=
  (List.range Config.pageCount).findSome? fun page =>
    ((List.range vh).find? fun n =>
      Config.lineBudget < ((pageTiles b page).map fun e => auditDemand b directory vw vh n e.2).sum).map (.page page)

/-! ### Check 5, SCHEDULE -/

/-- The first entry of a list whose page holds no tile, with its position. -/
def firstEmptyPage (b : Bank) : Nat → List SchedEntry → Option AuditFailure
  | _, [] => none
  | i, e :: rest => if (pageTiles b e.page).isEmpty then some (.page e.page i) else firstEmptyPage b (i + 1) rest

def checkSchedule (b : Bank) : Option AuditFailure :=
  if b.schedule.isEmpty then some .nothing else firstEmptyPage b 0 b.schedule

/-! ### Pacing -/

/-- The viewport of the frame in progress (R37). -/
def frameSettings (s : State) : NodeSettings :=
  match s.frame with
  | some f => f.snap.settings
  | none => s.context.settings

/-- The first failure a check finds in its scan order, if it fails. -/
def runCheck (s : State) (check : Nat) : Option AuditFailure :=
  match check with
  | 1 => checkReferences s.tables.staged s.photos.directory
  | 2 => checkPhotosReady s.tables.staged s.photos.directory
  | 3 => checkPriceFit s.tables.staged s.glyphs.slots
  | 4 => checkLineBudget s.tables.staged s.photos.directory (frameSettings s).vw (frameSettings s).vh
  | _ => checkSchedule s.tables.staged

def maskHas (m : AuditMask) (check : Nat) : Bool :=
  match check with
  | 1 => m.c1 | 2 => m.c2 | 3 => m.c3 | 4 => m.c4 | 5 => m.c5 | _ => false

/-- The lowest enabled check not below a number (R30, R31). -/
def nextCheck (m : AuditMask) (least : Nat) : Option Nat :=
  [1, 2, 3, 4, 5].find? fun c => least ≤ c && maskHas m c

/-- Completion (R32). -/
def completeAudit (s : State) (state : StagedState) (result : AuditResult) : State :=
  State.raise
    { s with
      tables := { s.tables with stagedState := state }
      audit := { progress := none, result := result } } .auditDone

/-- What a frame start does to a running audit (R31), before the new snapshot is fixed. -/
def auditFrame (s : State) : State :=
  match s.audit.progress with
  | none => s
  | some p =>
    match p.next with
    | none => completeAudit s .passed .passed
    | some c =>
      if p.running then
        match runCheck s c with
        | some failure => completeAudit s .failed (.failed c failure)
        | none =>
          match nextCheck p.enabled (c + 1) with
          | some c' => { s with audit := { s.audit with progress := some { p with next := some c' } } }
          | none => completeAudit s .passed .passed
      else { s with audit := { s.audit with progress := some { p with running := true } } }

/-- Abort of a running audit with a result (R33); the staged state is set by the cause. -/
def abortAudit (s : State) (result : AuditResult) : State :=
  if s.tables.stagedState = .auditing then { s with audit := { progress := none, result := result } } else s

end Sys2Proof.Machine
end

