-- ==== Sys2Proof/Machine/Capture.lean ====
section
/-! DEFINITION. The Capture Engine: failures (R106, R108), arming (R102), source lines and completion (R97, R103–R105, R131). -/

namespace Sys2Proof.Machine

/-- Whether a request is a strip of a photo. -/
def isStripOf (id : Nat) : CaptureRequest → Bool
  | .strip photo .. => photo = id
  | .glyph .. => false

/-- The row count of a strip. -/
def stripRows : CaptureRequest → Nat
  | .strip _ _ _ _ rows => rows
  | .glyph .. => 0

/-- Every request of the engine, the one in flight first. -/
def allRequests (c : CaptureEngine) : List CaptureRequest :=
  (match c.inFlight with
   | some f => [f.request]
   | none => []) ++ c.queue

/-- The next expected row of a photo (R100). -/
def nextExpectedRow (c : CaptureEngine) (id : Nat) (r : PhotoRec) : Nat :=
  r.rowsFilled + (((allRequests c).filter (isStripOf id)).map stripRows).sum

/-- Sets one of the 48 glyph slots. -/
def State.setSlot (s : State) (font slot : Nat) (g : GlyphSlot) : State :=
  { s with glyphs := { s.glyphs with slots := s.glyphs.slots.set (slotIndex font slot) g } }

/-- Replaces the directory record of a photo. -/
def State.setPhoto (s : State) (id : Nat) (r : PhotoRec) : State :=
  { s with photos := { s.photos with directory := tput s.photos.directory id r } }

/-- The effects of a request's failure other than by DROPPED or FLUSHED (R106): for a strip the result and the number of
the photo's queued strips, which are removed; for a glyph load an EMPTY slot; CAPTURE_FAILED either way. The request has
left the queue and is not in flight. -/
def failRequest (s : State) (request : CaptureRequest) (result : StripResult) : State :=
  match request with
  | .strip id _ _ _ _ =>
    let skipped := (s.capture.queue.filter (isStripOf id)).length
    let s1 : State := { s with capture := { s.capture with queue := s.capture.queue.filter fun q => !isStripOf id q } }
    match tget s.photos.directory id with
    | some r => (s1.setPhoto id { r with last := result, skipped := skipped }).raise .captureFailed
    | none => s1.raise .captureFailed
  | .glyph font slot _ _ _ _ => (s.setSlot font slot .empty).raise .captureFailed

/-- The request in flight, if any, fails, and the engine becomes idle. -/
def failInFlight (s : State) (result : StripResult) : State :=
  match s.capture.inFlight with
  | none => s
  | some f => failRequest { s with capture := { s.capture with inFlight := none } } f.request result

/-- Whether a request's source rectangle lies within a canvas (R102). -/
def withinCanvas (directory : Table PhotoRec) (width height : Nat) : CaptureRequest → Bool
  | .strip id x y _ rows =>
    match tget directory id with
    | some r => x + r.w ≤ width && y + rows ≤ height
    | none => false
  | .glyph _ _ x y w h => x + w ≤ width && y + h ≤ height

/-- Arming at a frame start made by a good header (R102). -/
def armCapture (s : State) : State :=
  match s.capture.inFlight, s.capture.queue, s.receiver.canvas with
  | none, request :: rest, some (width, height) =>
    if withinCanvas s.photos.directory width height request then
      { s with capture := { queue := rest, inFlight := some ⟨request, 0⟩ } }
    else failRequest { s with capture := { s.capture with queue := rest } } request .outOfCanvas
  | _, _, _ => s

/-- The engine after a request has completed. -/
def completeCapture (s : State) : State :=
  State.raise { s with capture := { s.capture with inFlight := none } } .captureDone

/-- One more source line of the request in flight has been written. -/
def countLine (s : State) (f : InFlight) : State :=
  { s with capture := { s.capture with inFlight := some { f with written := f.written + 1 } } }

/-- A photo record when a strip of it has completed (R104). -/
def stripDone (r : PhotoRec) (rows : Nat) : PhotoRec :=
  { r with
    rowsFilled := r.rowsFilled + rows
    last := .done
    skipped := 0
    state := if r.rowsFilled + rows = r.h then .ready else r.state }

/-- The bitmap line of a captured cell line: ink where the luma is 128 or more (R97). -/
def inkLine (pixels : List Color) (x w : Nat) : List Bool := ((pixels.drop x).take w).map fun c => decide (128 ≤ luma c)

/-- The rows a LOADING slot holds so far. -/
def loadingRows : GlyphSlot → List (List Bool)
  | .loading rows => rows
  | _ => []

/-- A strip's source line (R103, R104, R131): canvas line a with the pixels it gave, and the line budget's remainder. -/
def stripLine (s : State) (f : InFlight) (id x y row rows a : Nat) (pixels : List Color) (remainder : Nat) : State :=
  match tget s.photos.directory id with
  | none => s
  | some r =>
    if x + r.w ≤ pixels.length ∧ r.w ≤ remainder then
      let s1 : State :=
        { s with
          photos :=
            { s.photos with
              memory := writePhotoRow r (row + (a - y)) 0 ((pixels.drop x).take r.w) s.photos.memory } }
      if a + 1 = y + rows then completeCapture (s1.setPhoto id (stripDone r rows)) else countLine s1 f
    else if x + r.w ≤ pixels.length then failInFlight s .overrun
    else if r.w ≤ remainder then failInFlight s .lost
    else failInFlight s (if Config.shortLineOverruns then .overrun else .lost)

/-- A glyph load's cell line (R97, R103, R105). -/
def glyphLine (s : State) (f : InFlight) (font slot x y w h a : Nat) (pixels : List Color) : State :=
  if x + w ≤ pixels.length then
    let rows := loadingRows (slotOf s.glyphs.slots font slot) ++ [inkLine pixels x w]
    if a + 1 = y + h then completeCapture (s.setSlot font slot (.loaded w h rows))
    else countLine (s.setSlot font slot (.loading rows)) f
  else failInFlight s .lost

/-- Canvas line a reaches the Capture Engine with the pixels it gave. -/
def captureLine (s : State) (a : Nat) (pixels : List Color) (remainder : Nat) : State :=
  match s.capture.inFlight with
  | none => s
  | some f =>
    match f.request with
    | .strip id x y row rows => if y ≤ a ∧ a < y + rows then stripLine s f id x y row rows a pixels remainder else s
    | .glyph font slot x y w h => if y ≤ a ∧ a < y + h then glyphLine s f font slot x y w h a pixels else s

end Sys2Proof.Machine
end

