-- ==== Sys2Proof/Machine/FrameStart.lean ====
section
/-! DEFINITION. The frame start: what every frame start does, in its order (R31, R43–R45, R48–R50, R66, R78, R102, R108,
R117, R137, R142–R144, R152, R160, R161, R165). -/

namespace Sys2Proof.Machine

/-- What makes a frame start. -/
inductive FrameCause where
  /-- The end of a good header line, with its frame number. -/
  | goodHeader (number : FrameNo)
  /-- The end of a bad header line in LIVE or LOSS_WAIT. -/
  | badHeader
  /-- The expiry of the header timer. -/
  | headerTimer
  /-- The expiry of the local frame timer. -/
  | localTimer
deriving DecidableEq, Repr

/-- The flags of the frame that ends become the kept flags (R137). -/
def keepFlags (s : State) : State :=
  match s.frame with
  | none => s
  | some f =>
    { s with kept := some ⟨f.snap.number, f.snap.page, f.tiles.map fun e => (e.id, e.flags)⟩ }

/-- The new frame's number: adopted from a good header, otherwise predicted; 0 for the first frame after a reset (R152). -/
def newNumber (s : State) : FrameCause → FrameNo
  | .goodHeader n => n
  | _ =>
    match s.frame with
    | none => 0
    | some _ => s.timing.number + 1

/-- A good header whose number is not the previous frame's plus 1 (R44, R152). -/
def isDiscontinuity (s : State) : FrameCause → Bool
  | .goodHeader n => n != s.timing.number + 1
  | _ => false

/-- After NODE_RESET TABLES the reference and use counts become 0 at the next frame start (R45). -/
def expireCounts (s : State) : State :=
  if s.tables.countsExpire then State.recount { s with tables := { s.tables with countsExpire := false } } emptyBank
  else s

/-- Cancellation of a pending take (R44). -/
def cancelTake (s : State) : State :=
  State.raise { s with tables := { s.tables with pendingTake := none } } .takeCancelled

/-- Application of a pending take (R43, R45). -/
def applyTake (s : State) : State :=
  State.raise
    (State.recount
      { s with
        tables := { s.tables with live := s.tables.staged, stagedState := .clean, pendingTake := none } }
      s.tables.staged) .takeDone

/-- The pending take at a frame start numbered `number` (R43, R44): `cancels` holds on a discontinuity and on entry into
STANDALONE, and takes precedence over application. -/
def settleTake (s : State) (number : FrameNo) (cancels : Bool) : State :=
  match s.tables.pendingTake with
  | none => s
  | some target =>
    if cancels then cancelTake s
    else if target = number then applyTake s
    else s

/-- The kind of the frame a cause begins; a frame start that enters STANDALONE begins a local frame (R149). -/
def frameKind (cause : FrameCause) (standalone : Bool) : FrameKind :=
  match cause with
  | .goodHeader _ => .goodHeader
  | .badHeader => if standalone then .localFrame else .badHeader
  | _ => .localFrame

/-- The frame has already counted its miss: a frame begun by a bad header or by the header timer (R146). -/
def startsMissed : FrameCause → Bool
  | .badHeader | .headerTimer => true
  | _ => false

/-- Fixes the snapshot (R49), builds the frame tile list (R117) and begins the frame. -/
def beginFrame (s : State) (kind : FrameKind) : State :=
  { s with
    context := contextAfter s.context (snapshotOf s).active
    frame := some
      { snap := snapshotOf s
        tiles := frameTiles (snapshotOf s)
        kind := kind
        inputOpen := kind != .localFrame
        nextLine := 0 } }

/-- The panel sense sample and its debounce (R161). -/
def samplePanel (s : State) : State :=
  let level : PanelState := if s.pins.panelSense then .present else .absent
  if level = s.output.panel then { s with output := { s.output with debounce := 0 } }
  else if s.output.debounce + 1 < 4 then { s with output := { s.output with debounce := s.output.debounce + 1 } }
  else State.raise { s with output := { s.output with panel := level, debounce := 0 } } .panelChanged

/-- One fade step of a level toward a target (R165). -/
def fadeToward (level target step : Byte) : Byte :=
  if level.toNat < target.toNat then BitVec.ofNat 8 (level.toNat + min step.toNat (target.toNat - level.toNat))
  else BitVec.ofNat 8 (level.toNat - min step.toNat (level.toNat - target.toNat))

/-- The backlight at a frame start (R165, R166): a fade step while PRESENT, 0 while ABSENT. -/
def stepBacklight (s : State) : State :=
  match s.output.panel, s.frame with
  | .present, some f =>
    { s with output := { s.output with level := fadeToward s.output.level f.snap.target f.snap.settings.fadeStep } }
  | .present, none => s
  | .absent, _ => { s with output := { s.output with level := 0 } }

/-- The first lines of a new frame: the panel port marks it (R160), and a local frame composes its line 0 (R144). -/
def openFrame (s : State) (kind : FrameKind) : State :=
  match kind with
  | .localFrame => composeFillLine (s.drive .frameMark)
  | _ => s.drive .frameMark

/-- The frame's number and its miss flag, and the timers that measure from its start (R142, R143, R146). -/
def timeFrame (s : State) (number : FrameNo) (missed : Bool) : State :=
  { s with
    timing :=
      { s.timing with
        number := number
        missed := missed
        headerTimer :=
          match s.timing.link with
          | .live | .lossWait => true
          | _ => s.timing.headerTimer } }

/-- Arming, where a good header made the frame start (R102). -/
def armIfGood (s : State) : FrameCause → State
  | .goodHeader _ => armCapture s
  | _ => s

/-- The part of a frame start that ends the old frame and settles what the new one reads: the request in flight is LOST
(R108), the flags are kept (R137), the audit's check is evaluated (R31), the frame is numbered (R152), the counts expire and
the take is applied or cancelled (R43–R45). -/
def settleFrame (s : State) (cause : FrameCause) (standalone : Bool) : State :=
  let s1 := auditFrame (keepFlags (failInFlight s .lost))
  let s2 := timeFrame s1 (newNumber s1 cause) (startsMissed cause)
  settleTake (expireCounts s2) (newNumber s1 cause) (isDiscontinuity s1 cause || standalone)

/-- A frame start (R49). The link state and the clock are already as the event that makes it leaves them. -/
def frameStart (s : State) (cause : FrameCause) (standalone : Bool) : State :=
  let kind := frameKind cause standalone
  let s1 := beginFrame (settleFrame s cause standalone) kind
  openFrame (armIfGood (stepBacklight (samplePanel s1)) cause) kind

end Sys2Proof.Machine
end

