-- ==== Sys2Proof/Machine/Link.lean ====
section
/-! DEFINITION. Link states, header lines, misses, stopped input and the clock (R140–R156, R167). -/

namespace Sys2Proof.Machine

/-! ### The clock (R154) -/

/-- One second later. -/
def tickClock (t : FrameTiming) : FrameTiming :=
  if t.second < 59 then { t with second := t.second + 1 }
  else if t.minute < 59 then { t with second := 0, minute := t.minute + 1 }
  else if t.hour < 23 then { t with second := 0, minute := 0, hour := t.hour + 1 }
  else { t with second := 0, minute := 0, hour := 0 }

/-- The clock after a good header line: set where the three time fields are in range, kept otherwise. -/
def setClock (t : FrameTiming) (h : Header) : FrameTiming :=
  if h.hour < 24 ∧ h.minute < 60 ∧ h.second < 60 then
    { t with hour := h.hour, minute := h.minute, second := h.second, timeValid := true }
  else t

/-! ### Link state changes (R147–R151) -/

/-- The node enters a link state with both counts 0, and LINK_CHANGED is raised. -/
def State.enter (s : State) (link : LinkState) (miss : Nat) : State :=
  State.raise { s with timing := { s.timing with link := link, good := 0, miss := miss } } .linkChanged

/-- Entry into LIVE from SEARCH or STANDALONE (R151): the local frame timer stops and the header timer starts. -/
def enterLive (s : State) : State :=
  let s1 := s.enter .live 0
  { s1 with timing := { s1.timing with localTimer := false, headerTimer := true } }

/-- Entry into STANDALONE (R149): the local frame timer starts and the header timer starts again as a gap timer. -/
def enterStandalone (s : State) : State :=
  let s1 := s.enter .standalone 0
  { s1 with timing := { s1.timing with localTimer := true, headerTimer := true } }

/-- The good count that takes the node into LIVE: 2 in SEARCH, 8 in STANDALONE (R148, R150). -/
def goodTarget : LinkState → Nat
  | .search => 2
  | _ => 8

/-- A good count that begins no frame; the gap timer starts again (R148, R150). -/
def countGood (s : State) : State :=
  { s with timing := { s.timing with good := s.timing.good + 1, headerTimer := true } }

/-- A bad header line in SEARCH or STANDALONE: the good count becomes 0 and the gap timer starts again (R148, R150). -/
def clearGood (s : State) : State :=
  { s with timing := { s.timing with good := 0, headerTimer := true } }

/-- The good header's effect on the link state and its frame start, if it makes one (R148–R151). DESIGN CHOICE, unsafe
(assumption 27): in SEARCH the second good header begins its frame, with its own number, even where the local frame timer has
not yet expired since the reset (R148, R151), though R140 and R192 make that expiry the first frame start. -/
def goodHeader (s : State) (h : Header) : State :=
  match s.timing.link with
  | .live => frameStart { s with timing := { s.timing with miss := 0 } } (.goodHeader h.number) false
  | .lossWait => frameStart (s.enter .live 0) (.goodHeader h.number) false
  | link =>
    if s.timing.good + 1 < goodTarget link then countGood s
    else frameStart (enterLive s) (.goodHeader h.number) false

/-- A miss that makes a frame start: a bad header line or the expiry of the header timer in LIVE or LOSS_WAIT (R146, R149). -/
def missFrame (s : State) (cause : FrameCause) : State :=
  match s.timing.link with
  | .live => frameStart (s.enter .lossWait 1) cause false
  | _ =>
    if s.timing.miss + 1 < 3 then
      frameStart { s with timing := { s.timing with miss := s.timing.miss + 1 } } cause false
    else frameStart (enterStandalone s) cause true

/-- A bad header line's effect (R148–R150). -/
def badHeader (s : State) : State :=
  match s.timing.link with
  | .search | .standalone => clearGood s
  | _ => missFrame s .badHeader

/-- The end of a header line (R141): a good header is held for its canvas size, sets the clock and acts on the link state;
a bad one only acts on the link state. -/
def headerEnd (s : State) (bytes : List Byte) : State :=
  let s1 : State := { s with receiver := { s.receiver with position := .lines 0 } }
  match parseHeader bytes with
  | some h =>
    goodHeader
      { s1 with
        receiver := { s1.receiver with canvas := some (h.width, h.height) }
        timing := setClock s1.timing h } h
  | none => badHeader s1

/-! ### Stopped input (R145, R146, R149) -/

/-- The canvas height held for the frame. -/
def canvasHeight (s : State) : Nat :=
  match s.receiver.canvas with
  | some c => c.2
  | none => 0

/-- The canvas width held for the frame. -/
def canvasWidth (s : State) : Nat :=
  match s.receiver.canvas with
  | some c => c.1
  | none => 0

/-- Whether the input lines of the frame in progress are still arriving: a header frame that has not stopped and whose last
expected active line has not arrived. -/
def inputRunning (s : State) : Bool :=
  match s.frame, s.receiver.position with
  | some f, .lines a => f.inputOpen && a < canvasHeight s
  | _, _ => false

/-- The miss of a stop: counted for a frame begun by a good header that has not yet counted one (R146). -/
def missAtStop (s : State) : State :=
  match s.frame with
  | some f =>
    if f.kind = .goodHeader ∧ s.timing.missed = false ∧ s.timing.link = .live then
      let s1 := s.enter .lossWait (s.timing.miss + 1)
      { s1 with timing := { s1.timing with missed := true } }
    else s
  | none => s

/-- The frame in progress takes no more input lines. -/
def closeInput (s : State) : State :=
  { s with frame := s.frame.map fun f => { f with inputOpen := false } }

/-- A stop is decided, if the input lines of the frame in progress are still arriving (R145): the request in flight is LOST
(R108), a miss may be counted, and the first output line not yet composed is composed over fill (R144). -/
def stopInput (s : State) : State :=
  if inputRunning s then composeFillLine (missAtStop (failInFlight (closeInput s) .lost)) else s

/-! ### Active lines (R103, R113, R114, R145, R167) -/

/-- The output line an input line corresponds to, if the viewport covers it (R113). -/
def outputLine (settings : NodeSettings) (a : Nat) : Option Nat :=
  if settings.vy ≤ a ∧ a < settings.vy + settings.vh then some (a - settings.vy) else none

/-- Canvas line a of a frame whose input lines are arriving: it gives an output line, and what the tiles leave of the line's
budget goes to the Capture Engine (R131). -/
def feedLine (s : State) (f : Frame) (a : Nat) (pixels : List Color) : State :=
  match outputLine f.snap.settings a with
  | some n => captureLine (composeLine s n (canvasBase f.snap.settings pixels)) a pixels (lineGrants s f n).2
  | none => captureLine s a pixels Config.lineBudget

/-- An ACTIVE line, its pixel bytes without the kind byte. -/
def activeArrives (s : State) (bytes : List Byte) : State :=
  match s.receiver.position with
  | .lines a =>
    let s1 : State := { s with receiver := { s.receiver with position := .lines (a + 1) } }
    match s.frame with
    | some f => if inputRunning s then feedLine s1 f a ((pixelsOf bytes).take (canvasWidth s)) else s1
    | none => s1
  | _ => s

/-! ### Local lines (R144) -/

/-- Whether the next output line of the frame in progress has no input line to wait for: its input has stopped or it is a
local frame, or the frame's last active line has arrived. -/
def lineIsLocal (s : State) : Bool := s.frame.isSome && !inputRunning s

/-- One local line period passes. -/
def localLine (s : State) : State := if lineIsLocal s then composeFillLine s else s

end Sys2Proof.Machine
end

