-- ==== Sys2Proof/Machine/Immediate.lean ====
section
/-! DEFINITION. The immediate class: STOCK (R24), FORCE (R57), HIGHLIGHT (R133), BACKLIGHT (R164), CONFIG_PUT (R185) and
GAMMA_PUT (R159), as the Command Processor carries them out. -/

namespace Sys2Proof.Machine

/-- A list after pairs of index and value have been written in order. -/
def writePairs {α : Type} : List (Nat × α) → List α → List α
  | [], l => l
  | (i, a) :: rest, l => writePairs rest (l.set i a)

/-- STOCK (R24). DEDUCED, unsafe (assumption 25): the reply holds no data, as R24 and section 11.8 say, though R63 says
that STOCK's reply shows the new map entry. -/
def carryStock (p : List Byte) (s : State) : Taken :=
  if p.length = 0 ∨ p.length ≠ 1 + 3 * u8 p 0 then refuse .badLength s
  else
    match parseStock p with
    | none => refuse .outOfRange s
    | some pairs => done { s with tables := { s.tables with stock := writePairs pairs s.tables.stock } }

/-- FORCE (R57). -/
def carryForce (p : List Byte) (s : State) : Taken :=
  if p.length ≠ 3 then refuse .badLength s
  else
    match parseForce p with
    | none => refuse .outOfRange s
    | some override => done { s with context := { s.context with override := override } }

/-- HIGHLIGHT (R133). -/
def carryHighlight (p : List Byte) (s : State) : Taken :=
  if p.length ≠ 9 then refuse .badLength s
  else
    match parseHighlight p with
    | none => refuse .outOfRange s
    | some (0, content) => done { s with context := { s.context with high0 := content } }
    | some (_, content) => done { s with context := { s.context with high1 := content } }

/-- The resolved backlight target of the frame in progress. -/
def resolvedTarget (s : State) : Byte :=
  match s.frame with
  | some f => f.snap.target
  | none => 0

/-- The data of a BACKLIGHT reply (section 11.8). DESIGN CHOICE, unsafe (assumption 28): where the override is released, its
target byte is 00; section 11.8 sends absent fields as zero bytes in QUERY data, and says nothing of this reply. -/
def backlightData (s : State) : List Byte :=
  [s.output.level] ++ put8 (panelCode s.output.panel) ++ [resolvedTarget s] ++
  (match s.output.override with
   | none => zeros 2
   | some target => putFlag true ++ [target])

/-- BACKLIGHT (R164). -/
def carryBacklight (p : List Byte) (s : State) : Taken :=
  if p.length ≠ 2 then refuse .badLength s
  else
    match parseBacklight p with
    | none => refuse .outOfRange s
    | some override =>
      let s1 : State := { s with output := { s.output with override := override } }
      doneWith (backlightData s1) s1

/-- CONFIG_PUT (R185). -/
def carryConfigPut (p : List Byte) (s : State) : Taken :=
  if p.length ≠ 22 then refuse .badLength s
  else
    match parseSettings p with
    | none => refuse .outOfRange s
    | some settings => done { s with context := { s.context with settings := settings } }

/-- A list after consecutive entries have been written from an index on. -/
def writeRun {α : Type} : Nat → List α → List α → List α
  | _, [], l => l
  | i, a :: rest, l => writeRun (i + 1) rest (l.set i a)

/-- The gamma tables after entries of one channel have been written. -/
def writeGamma (g : GammaTables) (channel : GammaChannel) (start : Nat) (entries : List PanelCode) : GammaTables :=
  match channel with
  | .red => { g with red := writeRun start entries g.red }
  | .green => { g with green := writeRun start entries g.green }
  | .blue => { g with blue := writeRun start entries g.blue }

/-- GAMMA_PUT (R159). -/
def carryGammaPut (p : List Byte) (s : State) : Taken :=
  if p.length < 4 ∨ p.length ≠ 4 + 2 * u8 p 3 then refuse .badLength s
  else
    match parseGamma p with
    | none => refuse .outOfRange s
    | some (channel, start, entries) =>
      done { s with output := { s.output with gamma := writeGamma s.output.gamma channel start entries } }

end Sys2Proof.Machine
end

