-- ==== Sys2Proof/Machine/Photos.lean ====
section
/-! DEFINITION. The memory class: PHOTO_OPEN (R93), PHOTO_DROP (R94), CAPTURE (R100, R101), GLYPH_LOAD (R98) and CAPTURE_FLUSH
(R109), as the Command Processor carries them out. -/

namespace Sys2Proof.Machine

/-- Blocks a photo of W × H takes (R87). -/
def blocksNeeded (w h : Nat) : Nat := blocksAcross w * blocksAcross h

/-- The new record of PHOTO_OPEN (R93). -/
def newPhoto (w h : Nat) (key : Option Color) (blocks : List Nat) : PhotoRec :=
  { state := .opened, w := w, h := h, key := key, blocks := blocks, rowsFilled := 0, last := .none, skipped := 0 }

/-- PHOTO_OPEN's key colour, or none where its presence flag is neither absent nor present. -/
def readKey (p : List Byte) : Option (Option Color) :=
  (readFlag (byteAt p 5)).map fun present => if present then some (colorAt p 6) else none

/-- PHOTO_OPEN (R93). -/
def carryPhotoOpen (p : List Byte) (s : State) : Taken :=
  if p.length ≠ 9 then refuse .badLength s
  else if (tget s.photos.directory (u8 p 0)).isSome then refuse .inUse s
  else if u16 p 1 = 0 ∨ 512 < u16 p 1 ∨ u16 p 3 = 0 ∨ 512 < u16 p 3 then refuse .outOfRange s
  else
    match readKey p with
    | none => refuse .outOfRange s
    | some key =>
      if s.photos.free.length < blocksNeeded (u16 p 1) (u16 p 3) then refuse .noSpace s
      else
        let blocks := s.photos.free.take (blocksNeeded (u16 p 1) (u16 p 3))
        let free := s.photos.free.drop (blocksNeeded (u16 p 1) (u16 p 3))
        doneWith (put16 free.length)
          { s with
            photos :=
              { s.photos with
                directory := tput s.photos.directory (u8 p 0) (newPhoto (u16 p 1) (u16 p 3) key blocks)
                free := free } }

/-- The live reference count of a photo (R91). -/
def referenceCount (s : State) (id : Nat) : Nat := s.photos.refCounts.getD id 0

/-- Whether a strip of a photo is in flight. -/
def flyingStrip (c : CaptureEngine) (id : Nat) : Bool :=
  match c.inFlight with
  | some f => isStripOf id f.request
  | none => false

/-- The Capture Engine without the strips of a photo: they end with DROPPED (R94). -/
def dropStrips (c : CaptureEngine) (id : Nat) : CaptureEngine :=
  { queue := c.queue.filter fun q => !isStripOf id q
    inFlight := if flyingStrip c id then none else c.inFlight }

/-- PHOTO_DROP (R94). -/
def carryPhotoDrop (p : List Byte) (s : State) : Taken :=
  if p.length ≠ 1 then refuse .badLength s
  else
    match tget s.photos.directory (u8 p 0) with
    | none => refuse .notFound s
    | some r =>
      if 0 < referenceCount s (u8 p 0) then refuse .inUse s
      else
        let s1 : State :=
          { s with
            photos :=
              { s.photos with
                directory := tdrop s.photos.directory (u8 p 0)
                free := s.photos.free ++ r.blocks }
            capture := dropStrips s.capture (u8 p 0) }
        doneWith (put16 s1.photos.free.length)
          (s1.raiseIf ((allRequests s.capture).any (isStripOf (u8 p 0))) .captureFailed)

/-- CAPTURE's range test (R100, item 4). -/
def captureInRange (p : List Byte) (r : PhotoRec) : Bool :=
  1 ≤ u16 p 7 && u16 p 7 ≤ 512 && u16 p 5 + u16 p 7 ≤ r.h && u16 p 1 ≤ 8191 && u16 p 3 ≤ 4095 &&
  u16 p 1 + r.w ≤ 8192 && u16 p 3 + u16 p 7 ≤ 4096

/-- CAPTURE (R100, R101). -/
def carryCapture (p : List Byte) (s : State) : Taken :=
  if p.length ≠ 9 then refuse .badLength s
  else
    match tget s.photos.directory (u8 p 0) with
    | none => refuse .notFound s
    | some r =>
      if r.state = .ready then refuse .wrongState s
      else if !captureInRange p r then refuse .outOfRange s
      else if u16 p 5 ≠ nextExpectedRow s.capture (u8 p 0) r then refuse .rowOrder s
      else if Config.captureCapacity ≤ s.capture.queue.length then refuse .queueFull s
      else
        done
          { s with
            capture :=
              { s.capture with
                queue := s.capture.queue ++ [.strip (u8 p 0) (u16 p 1) (u16 p 3) (u16 p 5) (u16 p 7)] } }

/-- GLYPH_LOAD's range test (R98, item 2). -/
def glyphInRange (p : List Byte) : Bool :=
  u8 p 0 ≤ 3 && u8 p 1 ≤ 11 && 1 ≤ u8 p 6 && u8 p 6 ≤ 64 && 1 ≤ u8 p 7 && u8 p 7 ≤ 96 && u16 p 2 ≤ 8191 &&
  u16 p 4 ≤ 4095 && u16 p 2 + u8 p 6 ≤ 8192 && u16 p 4 + u8 p 7 ≤ 4096

def slotLoading : GlyphSlot → Bool
  | .loading _ => true
  | _ => false

/-- GLYPH_LOAD (R98). -/
def carryGlyphLoad (p : List Byte) (s : State) : Taken :=
  if p.length ≠ 8 then refuse .badLength s
  else if !glyphInRange p then refuse .outOfRange s
  else if 0 < columnGet s.glyphs.useCounts (u8 p 0) then refuse .inUse s
  else if slotLoading (slotOf s.glyphs.slots (u8 p 0) (u8 p 1)) then refuse .wrongState s
  else if Config.captureCapacity ≤ s.capture.queue.length then refuse .queueFull s
  else
    let s1 := s.setSlot (u8 p 0) (u8 p 1) (.loading [])
    done
      { s1 with
        capture :=
          { s1.capture with
            queue := s1.capture.queue ++ [.glyph (u8 p 0) (u8 p 1) (u16 p 2) (u16 p 4) (u8 p 6) (u8 p 7)] } }

/-- A photo record after its strips have been flushed: FLUSHED with the strips beyond the first as the skipped count (R109). -/
def flushPhoto (requests : List CaptureRequest) (e : Nat × PhotoRec) : Nat × PhotoRec :=
  let strips := (requests.filter (isStripOf e.1)).length
  if strips = 0 then e else (e.1, { e.2 with last := .flushed, skipped := strips - 1 })

/-- The slots after every glyph load has returned its slot to EMPTY (R106, R109). -/
def flushSlots : List CaptureRequest → List GlyphSlot → List GlyphSlot
  | [], l => l
  | .glyph font slot _ _ _ _ :: rest, l => flushSlots rest (l.set (slotIndex font slot) .empty)
  | .strip .. :: rest, l => flushSlots rest l

/-- CAPTURE_FLUSH (R109). -/
def carryCaptureFlush (p : List Byte) (s : State) : Taken :=
  if p.length ≠ 0 then refuse .badLength s
  else
    let requests := allRequests s.capture
    let s1 : State :=
      { s with
        photos := { s.photos with directory := s.photos.directory.map (flushPhoto requests) }
        glyphs := { s.glyphs with slots := flushSlots requests s.glyphs.slots }
        capture := { queue := [], inFlight := none } }
    doneWith (put8 requests.length) (s1.raiseIf (!requests.isEmpty) .captureFailed)

end Sys2Proof.Machine
end

