-- ==== Sys2Proof/Machine/Staged.lean ====
section
/-! DEFINITION. The staged class: the staged edit commands (R3, R8–R22), STAGE_COPY (R28), AUDIT (R30), TAKE (R40) and
TAKE_CANCEL (R46), as the Command Processor carries them out. -/

namespace Sys2Proof.Machine

/-! ### Staged edits -/

/-- A successful staged edit: the new staged content, DIRTY, and a running audit aborted with EDITED (R26, R33). -/
def commitEdit (s : State) (b : Bank) : State :=
  let s1 := abortAudit s .edited
  { s1 with tables := { s1.tables with staged := b, stagedState := .dirty } }

/-- The common handling of a staged edit (R3): BAD_LENGTH, TAKE_PENDING, OUT_OF_RANGE (`edit` is none), NOT_FOUND (the edit
answers none), in that order. -/
def stagedEdit (s : State) (lengthOk : Bool) (edit : Option (Bank → Option Bank)) : Taken :=
  if !lengthOk then refuse .badLength s
  else if s.tables.pendingTake.isSome then refuse .takePending s
  else
    match edit with
    | none => refuse .outOfRange s
    | some f =>
      match f s.tables.staged with
      | none => refuse .notFound s
      | some b => done (commitEdit s b)

/-- Whether a counted list has the length its count field implies: `head` bytes up to and with the count at `at`, and `each`
bytes an entry. -/
def countedLength (p : List Byte) (head at_ each : Nat) : Bool := head ≤ p.length && p.length = head + each * u8 p at_

/-- ITEM_PUT (R8). -/
def carryItemPut (p : List Byte) (s : State) : Taken :=
  stagedEdit s (p.length = 37) ((parseItem p).map fun r b => some { b with items := tput b.items r.1 r.2 })

/-- ITEM_DROP (R9). -/
def carryItemDrop (p : List Byte) (s : State) : Taken :=
  stagedEdit s (p.length = 2)
    (if u16 p 0 < Config.itemIds then
      some fun b => (tget b.items (u16 p 0)).map fun _ => { b with items := tdrop b.items (u16 p 0) }
    else none)

/-- COLUMN_PUT (R10). -/
def carryColumnPut (p : List Byte) (s : State) : Taken :=
  stagedEdit s (p.length = 3)
    (if u8 p 0 ≤ 3 ∧ 500 ≤ u16 p 1 ∧ u16 p 1 ≤ 2000 then
      some fun b => some { b with factors := columnSet b.factors (u8 p 0) (u16 p 1) }
    else none)

/-- FORMAT_PUT (R12). -/
def carryFormatPut (p : List Byte) (s : State) : Taken :=
  stagedEdit s (p.length = 9) ((parseFormat p).map fun f b => some { b with format := f })

/-- TILE_PUT (R18). -/
def carryTilePut (p : List Byte) (s : State) : Taken :=
  stagedEdit s (p.length = 39)
    ((parseTile p).map fun t b => some { b with tiles := tput b.tiles (tileKey t.1 t.2.1) t.2.2 })

/-- TILE_DROP (R19). -/
def carryTileDrop (p : List Byte) (s : State) : Taken :=
  stagedEdit s (p.length = 2)
    (if u8 p 0 < Config.pageCount ∧ u8 p 1 < Config.tilesPerPage then
      some fun b =>
        (tget b.tiles (tileKey (u8 p 0) (u8 p 1))).map fun _ =>
          { b with tiles := tdrop b.tiles (tileKey (u8 p 0) (u8 p 1)) }
    else none)

/-- PAGE_WIPE (R20). -/
def carryPageWipe (p : List Byte) (s : State) : Taken :=
  stagedEdit s (p.length = 1)
    (if u8 p 0 < Config.pageCount then
      some fun b => some { b with tiles := b.tiles.filter fun e => e.1 / Config.tilesPerPage != u8 p 0 }
    else none)

/-- SCHED_PUT (R22). -/
def carrySchedPut (p : List Byte) (s : State) : Taken :=
  stagedEdit s (countedLength p 1 0 5) ((parseSchedule p).map fun l b => some { b with schedule := l })

/-! ### The staged bank as a whole -/

/-- STAGE_COPY (R28). -/
def carryStageCopy (p : List Byte) (s : State) : Taken :=
  if p.length ≠ 0 then refuse .badLength s
  else if s.tables.pendingTake.isSome then refuse .takePending s
  else
    let s1 := abortAudit s .copied
    done { s1 with tables := { s1.tables with staged := s1.tables.live, stagedState := .clean } }

/-- The audit mask in effect for the frame in progress (R30). -/
def maskInEffect (s : State) : AuditMask := (frameSettings s).mask

/-- The audit policy in effect for the frame in progress (R39). -/
def policyInEffect (s : State) : AuditPolicy := (frameSettings s).policy

/-- AUDIT (R30). -/
def carryAudit (p : List Byte) (s : State) : Taken :=
  if p.length ≠ 0 then refuse .badLength s
  else if s.tables.pendingTake.isSome then refuse .takePending s
  else if s.tables.stagedState = .auditing then refuse .busy s
  else
    done
      { s with
        tables := { s.tables with stagedState := .auditing }
        audit :=
          { s.audit with
            progress := some ⟨maskInEffect s, nextCheck (maskInEffect s) 1, false⟩ } }

/-- The target a TAKE names: as given in mode AT, the next frame in mode NEXT; none for another mode (R40). -/
def takeTarget (p : List Byte) (number : FrameNo) : Option FrameNo :=
  match u8 p 0 with
  | 0 => some (BitVec.ofNat 16 (u16 p 1))
  | 1 => some (number + 1)
  | _ => none

/-- The distance of a target from a frame number, mod 65536 (R40). -/
def takeDistance (target number : FrameNo) : Nat := (target - number).toNat

/-- The staged state after an accepted TAKE: a TAKE under LAX that finds AUDITING aborts the audit and leaves DIRTY (R39). -/
def takeAborts (s : State) : State :=
  if s.tables.stagedState = .auditing then
    { s with
      tables := { s.tables with stagedState := .dirty }
      audit := { progress := none, result := .taken } }
  else s

/-- TAKE (R40, R41). -/
def carryTake (p : List Byte) (s : State) : Taken :=
  if p.length ≠ 3 then refuse .badLength s
  else
    match takeTarget p s.timing.number with
    | none => refuse .outOfRange s
    | some target =>
      if s.timing.link = .search ∨ s.timing.link = .standalone then refuse .wrongState s
      else if s.tables.pendingTake.isSome then refuse .takePending s
      else if policyInEffect s = .strict ∧ s.tables.stagedState ≠ .passed then refuse .notAudited s
      else if takeDistance target s.timing.number = 0 ∨ 4096 < takeDistance target s.timing.number then
        refuse .takeWindow s
      else
        let s1 := takeAborts s
        doneWith (put16 target.toNat) { s1 with tables := { s1.tables with pendingTake := some target } }

/-- TAKE_CANCEL (R46). -/
def carryTakeCancel (p : List Byte) (s : State) : Taken :=
  if p.length ≠ 0 then refuse .badLength s
  else if s.tables.pendingTake.isNone then refuse .wrongState s
  else done { s with tables := { s.tables with pendingTake := none } }

end Sys2Proof.Machine
end

