-- ==== Sys2Proof/Machine/Node.lean ====
section
/-! DEFINITION. The node class: QUERY (R64, R86, R111, R139, R186–R189, section 11.8), NODE_RESET (R190–R192) and RESTRAP
(R183), as the Command Processor carries them out, and the state a reset leaves (R193). -/

namespace Sys2Proof.Machine

/-! ### Query data -/

/-- The data of QUERY NODE (R187); the QUERY has left the intake queue. -/
def nodeData (s : State) : List Byte :=
  put8 s.lane.address.toNat ++ putFlag s.lane.conflict ++ put8 (linkCode s.timing.link) ++ put8 s.timing.good ++
  put8 s.timing.miss ++ put16 s.timing.number.toNat ++ put8 s.timing.hour ++ put8 s.timing.minute ++
  put8 s.timing.second ++ putFlag s.timing.timeValid ++ put8 s.intake.length ++ put8 s.lane.queue.length ++
  put8 s.capture.queue.length ++ putFlag s.capture.inFlight.isSome ++ put8 (panelCode s.output.panel) ++
  [s.output.level] ++ encodeSettings s.context.settings

/-- A presence byte and a record of `size` bytes, zero where absent. -/
def presentOr (size : Nat) : Option (List Byte) → List Byte
  | none => zeros (1 + size)
  | some record => putFlag true ++ record

/-- The frame's view of an item: status, offered, available, value and overflow, eight bytes (R64, R86). A MISSING item has
no cache fields, and a not-offered one reports offered no alone. -/
def itemView (snap : Snapshot) (id : Nat) : List Byte :=
  match tget snap.status id with
  | none => zeros 8
  | some status =>
    putFlag true ++ putFlag status.offered ++ putFlag status.available ++
    (match tget snap.cache id with
     | some (.priced value _) => put32 value ++ putFlag false
     | some (.overflow value) => put32 value ++ putFlag true
     | _ => zeros 5)

/-- The data of QUERY ITEM (R188). -/
def itemData (s : State) (id : Nat) : List Byte :=
  presentOr 37 ((tget s.tables.live.items id).map (encodeItem id)) ++
  presentOr 37 ((tget s.tables.staged.items id).map (encodeItem id)) ++
  put8 (stockCode (stockOf s.tables.stock id)) ++
  (match s.frame with
   | some f => itemView f.snap id
   | none => zeros 8)

/-- The data of QUERY TILE (R139). -/
def tileData (s : State) (page id : Nat) : List Byte :=
  presentOr 39 ((tget s.tables.live.tiles (tileKey page id)).map (encodeTile page id)) ++
  presentOr 39 ((tget s.tables.staged.tiles (tileKey page id)).map (encodeTile page id)) ++
  (match s.kept with
   | none => zeros 4
   | some k => putFlag true ++ put16 k.number.toNat ++ put8 k.page) ++
  [tileFlagBits (keptFlagsFor s page id)]

def photoStateCode : PhotoState → Nat
  | .opened => 1 | .ready => 2

/-- The record part of QUERY PHOTO: state, size, key colour, rows_filled and last result, thirteen bytes. -/
def photoView : Option PhotoRec → List Byte
  | none => zeros 13
  | some r =>
    put8 (photoStateCode r.state) ++ put16 r.w ++ put16 r.h ++
    (match r.key with
     | none => zeros 4
     | some c => putFlag true ++ putColor c) ++
    put16 r.rowsFilled ++ put8 (stripResultCode r.last) ++ put8 r.skipped

/-- The data of QUERY PHOTO (R111). -/
def photoData (s : State) (id : Nat) : List Byte :=
  photoView (tget s.photos.directory id) ++ put16 (referenceCount s id) ++ put16 s.photos.free.length

/-- The outcome, check, object kind, page, object id and detail of an audit result, eight bytes (R29, section 11.8). -/
def auditView : AuditResult → List Byte
  | .none => zeros 8
  | .passed => put8 1 ++ zeros 7
  | .failed check failure =>
    put8 2 ++ put8 check ++
    (match failure with
     | .nothing => zeros 6
     | .tile page id detail => put8 1 ++ put8 page ++ put16 id ++ put16 detail
     | .item id detail => put8 2 ++ zeros 1 ++ put16 id ++ put16 detail
     | .photo id => put8 3 ++ zeros 1 ++ put16 id ++ zeros 2
     | .page page detail => put8 4 ++ put8 page ++ zeros 2 ++ put16 detail)
  | .edited => put8 3 ++ zeros 7
  | .copied => put8 4 ++ zeros 7
  | .taken => put8 5 ++ zeros 7
  | .reset => put8 6 ++ zeros 7

/-- A set of checks as a byte, check 1 in bit 0 (section 11.8). The mask byte of QUERY STAGING is coded likewise
(DEDUCED, unsafe, assumption 22). DESIGN CHOICE, unsafe (assumption 26): bits 7 to 5, which section 11.8 does not give,
are sent as 0. -/
def maskByte (m : AuditMask) : Byte :=
  (0 : BitVec 3) ++ BitVec.ofBool m.c5 ++ BitVec.ofBool m.c4 ++ BitVec.ofBool m.c3 ++ BitVec.ofBool m.c2 ++
  BitVec.ofBool m.c1

/-- The next check and the enabled checks of a running audit; no next check is 0 (R30). -/
def progressView : Option AuditProgress → List Byte
  | none => zeros 2
  | some p => put8 (p.next.getD 0) ++ [maskByte p.enabled]

/-- The data of QUERY STAGING (R189). -/
def stagingData (s : State) : List Byte :=
  put8 (stagedCode s.tables.stagedState) ++ auditView s.audit.result ++ progressView s.audit.progress ++
  (match s.tables.pendingTake with
   | none => zeros 5
   | some t => putFlag true ++ put16 t.toNat ++ put16 (takeDistance t s.timing.number)) ++
  put8 (policyCode (policyInEffect s)) ++ [maskByte (maskInEffect s)]

/-- The snapshot part of QUERY SCHEDULE: minute, time valid, active entry, page, column and schedule target, thirteen bytes. -/
def scheduleView (snap : Snapshot) : List Byte :=
  put16 snap.minute ++ putFlag snap.timeValid ++
  (match snap.active with
   | none => zeros 7
   | some (i, e) =>
     putFlag true ++ put8 i ++ put16 e.start ++ put8 e.page ++ put8 e.column ++ [e.target]) ++
  put8 snap.page ++ put8 snap.column ++ [snap.schedTarget]

/-- The override as now held; FF is released (section 11.8). -/
def overrideView : Option Override → List Byte
  | none => put8 0xFF ++ zeros 2
  | some o => put8 (overrideModeCode o.mode) ++ put8 o.page ++ put8 o.column

/-- The data of QUERY SCHEDULE (R64). -/
def scheduleData (s : State) : List Byte :=
  (match s.frame with
   | some f => scheduleView f.snap
   | none => zeros 13) ++
  overrideView s.context.override

/-- A glyph slot's state, width and height. -/
def slotView : GlyphSlot → List Byte
  | .empty => zeros 3
  | .loading _ => put8 1 ++ zeros 2
  | .loaded w h _ => put8 2 ++ put8 w ++ put8 h

/-- A use count in one byte. A count above 255 has no stated byte (assumption 8). -/
def useCountByte (n : Nat) : Byte := if n ≤ 255 then BitVec.ofNat 8 n else Config.glyphUseCountByte n

/-- The data of QUERY GLYPH (R111). -/
def glyphData (s : State) (font : Nat) : List Byte :=
  [useCountByte (columnGet s.glyphs.useCounts font)] ++
  (List.range 12).flatMap fun slot => slotView (slotOf s.glyphs.slots font slot)

/-! ### QUERY -/

/-- The seven kinds of query with the arguments they use. -/
inductive Query where
  | node
  | item (id : Nat)
  | tile (page id : Nat)
  | photo (id : Nat)
  | staging
  | schedule
  | glyph (font : Nat)
deriving DecidableEq, Repr

/-- The query of a payload, or none where R186 refuses OUT_OF_RANGE. Arguments a kind does not use are not checked. -/
def parseQuery (p : List Byte) : Option Query :=
  match u8 p 0 with
  | 0 => some .node
  | 1 => if u16 p 1 < Config.itemIds then some (.item (u16 p 1)) else none
  | 2 => if u16 p 1 < Config.pageCount ∧ u8 p 3 < Config.tilesPerPage then some (.tile (u16 p 1) (u8 p 3)) else none
  | 3 => if u16 p 1 < Config.photoIds then some (.photo (u16 p 1)) else none
  | 4 => some .staging
  | 5 => some .schedule
  | 6 => if u16 p 1 ≤ 3 then some (.glyph (u16 p 1)) else none
  | _ => none

/-- The data of a query, read at the moment it is taken (R186). -/
def queryData (s : State) : Query → List Byte
  | .node => nodeData s
  | .item id => itemData s id
  | .tile page id => tileData s page id
  | .photo id => photoData s id
  | .staging => stagingData s
  | .schedule => scheduleData s
  | .glyph font => glyphData s font

/-- QUERY (R186): it reads and changes nothing. -/
def carryQuery (p : List Byte) (s : State) : Taken :=
  if p.length ≠ 4 then refuse .badLength s
  else
    match parseQuery p with
    | none => refuse .outOfRange s
    | some q => doneWith (queryData s q) s

/-! ### The resets -/

/-- The audit unit after a reset (R29). -/
def auditAfterReset (s : State) : AuditUnit :=
  { progress := none, result := if s.tables.stagedState = .auditing then .reset else .none }

/-- NODE_RESET TABLES (R191). -/
def resetTables (s : State) : State :=
  State.raiseIf
    { s with
      tables :=
        { live := emptyBank, staged := emptyBank, stagedState := .clean, stock := stockAllAvailable,
          pendingTake := none, countsExpire := true }
      audit := auditAfterReset s
      context := { s.context with override := none, high0 := none, high1 := none }
      output := { s.output with override := none } }
    s.tables.pendingTake.isSome .takeCancelled

/-- Every block in its reset state, picture memory and what stands outside the part as they were (R192, R193). -/
def resetBlocks (s : State) (address : BitVec 3) : State :=
  { State.reset with
    pins := s.pins
    lane := { State.reset.lane with address := address, upstreamHold := s.lane.upstreamHold }
    audit := auditAfterReset s
    photos := { State.reset.photos with memory := s.photos.memory }
    out := s.out
    pending := s.pending }

/-- NODE_RESET FULL (R192): the straps are sampled, and a lost take is reported in the emptied event set (R47). -/
def resetFull (s : State) : State :=
  (resetBlocks s s.pins.straps).raiseIf s.tables.pendingTake.isSome .takeCancelled

/-- NODE_RESET (R190). -/
def carryNodeReset (p : List Byte) (s : State) : Taken :=
  if p.length ≠ 1 then refuse .badLength s
  else
    match u8 p 0 with
    | 0 => done (resetTables s)
    | 1 => done (resetFull s)
    | _ => refuse .outOfRange s

/-- RESETn asserted (R193): every block is held in its reset state and no timer runs. The address is kept until the straps
are sampled at the release. -/
def holdReset (s : State) : State :=
  let s1 := resetBlocks s s.lane.address
  { s1 with resetn := true, timing := { s1.timing with headerTimer := false, localTimer := false } }

/-- RESETn released (R193): the straps are sampled and the timers start. -/
def releaseReset (s : State) : State :=
  { s with
    resetn := false
    lane := { s.lane with address := s.pins.straps }
    timing := { s.timing with headerTimer := true, localTimer := true } }

/-! ### RESTRAP -/

/-- RESTRAP (R183). -/
def carryRestrap (p : List Byte) (s : State) : Taken :=
  if p.length ≠ 0 then refuse .badLength s
  else if s.lane.conflict then done { s with lane := { s.lane with address := s.pins.straps, conflict := false } }
  else done s

end Sys2Proof.Machine
end

