-- ==== Sys2Proof/Machine/Processor.lean ====
section
/-! DEFINITION. Packet Intake (R169–R171), the Command Processor (R172–R174), the building of reply records (R175–R177) and the
Return Lane Interface's slots and buffer (R178–R182). -/

namespace Sys2Proof.Machine

/-! ### Command codes (section 11.6) -/

def codeNodeReset : Byte := 0x41

def codeRestrap : Byte := 0x42

/-- Carries out the command of a code with a payload; an unassigned code is refused with no other test (R172). -/
def carryOut (code : Byte) (p : List Byte) (s : State) : Taken :=
  match code.toNat with
  | 0x10 => carryItemPut p s
  | 0x11 => carryItemDrop p s
  | 0x12 => carryColumnPut p s
  | 0x13 => carryFormatPut p s
  | 0x14 => carryTilePut p s
  | 0x15 => carryTileDrop p s
  | 0x16 => carryPageWipe p s
  | 0x17 => carrySchedPut p s
  | 0x18 => carryStageCopy p s
  | 0x19 => carryAudit p s
  | 0x1A => carryTake p s
  | 0x1B => carryTakeCancel p s
  | 0x20 => carryStock p s
  | 0x21 => carryForce p s
  | 0x22 => carryHighlight p s
  | 0x23 => carryBacklight p s
  | 0x24 => carryConfigPut p s
  | 0x25 => carryGammaPut p s
  | 0x30 => carryPhotoOpen p s
  | 0x31 => carryPhotoDrop p s
  | 0x32 => carryCapture p s
  | 0x33 => carryGlyphLoad p s
  | 0x34 => carryCaptureFlush p s
  | 0x40 => carryQuery p s
  | 0x41 => carryNodeReset p s
  | 0x42 => carryRestrap p s
  | _ => refuse .unknownCommand s

/-! ### Answering (R173, R175, R176) -/

/-- Target 15, ALL. -/
def targetAll : BitVec 4 := 15

/-- Reply node 15, NONE. -/
def replyNone : BitVec 4 := 15

/-- The node address as a node field of a packet. -/
def addressField (s : State) : BitVec 4 := s.lane.address.setWidth 4

/-- Whether the command of a packet is answered at this node (R173). -/
def answered (s : State) (k : Packet) : Bool :=
  if k.code = codeNodeReset ∨ k.code = codeRestrap then false
  else if k.head.target = targetAll then k.head.reply = addressField s
  else k.head.reply ≠ replyNone

/-- The record of a taken command, read after it has been carried out (R175). -/
def buildRecord (k : Packet) (t : Taken) : ReplyRecord :=
  let r : ReplyRecord :=
    { source := t.state.lane.address.setWidth 8, tag := k.head.tag, command := k.code, result := resultCode t.result,
      summary := summary t.state, data := t.data, crc := 0 }
  { r with crc := crc16 (recordBody r) }

/-- Enqueues the record of a taken command; the events it carries are cleared (R176). -/
def reply (k : Packet) (t : Taken) : State :=
  { t.state with
    lane := { t.state.lane with queue := t.state.lane.queue ++ [buildRecord k t], events := noEvents } }

/-! ### Taking (R172, R174) -/

/-- The reply queue has no free slot (R178). -/
def replyFull (s : State) : Bool := Config.replyCapacity ≤ s.lane.queue.length

/-- Carries out one packet, which has left the intake queue, and answers it where R173 says so. -/
def takePacket (s : State) (k : Packet) : State :=
  if answered s k then reply k (carryOut k.code k.payload s) else (carryOut k.code k.payload s).state

/-- The Command Processor takes the packets of the intake queue, oldest first, until the queue is empty or the head is
stalled on. No packet is taken while no frame is in progress. The first argument bounds the packets taken. -/
def takePackets : Nat → State → State
  | 0, s => s
  | n + 1, s =>
    match s.frame, s.intake with
    | some _, k :: rest =>
      if answered s k && replyFull s then s else takePackets n (takePacket { s with intake := rest } k)
    | _, _ => s

/-- The Command Processor runs: each packet it takes leaves the queue, so it takes at most as many as wait. -/
def State.process (s : State) : State := takePackets s.intake.length s

/-- The Command Processor is a claimant of a free slot of the reply queue: it stands at a packet that is answered (R174, R180). -/
def processorWaits (s : State) : Bool :=
  match s.frame, s.intake with
  | some _, k :: _ => answered s k
  | _, _ => false

/-! ### Packet Intake (R169–R171) -/

/-- The target test (R170). -/
def targeted (s : State) (h : PacketHead) : Bool :=
  h.target = targetAll || (h.target = addressField s && !s.lane.conflict)

/-- An accepted packet joins the tail, or is discarded with INTAKE_OVERRUN (R171). -/
def joinIntake (s : State) (k : Packet) : State :=
  if s.intake.length < Config.intakeCapacity then { s with intake := s.intake ++ [k] } else s.raise .intakeOverrun

/-- A packet whose CRC has checked arrives (R170–R172). -/
def packetArrives (s : State) (k : Packet) : State := if targeted s k.head then (joinIntake s k).process else s

/-- The bytes of a PACKET line after its kind byte arrive at Packet Intake (R169). -/
def packetBytes (s : State) (bs : List Byte) : State :=
  match parsePacket bs with
  | some k => packetArrives s k
  | none => s.raise .packetCrc

/-! ### The return lane (R178–R182) -/

/-- The record waiting in the receive buffer, if any, is accepted into the reply queue: the downstream transfer ends, and a
source equal to the node address sets CONFLICT (R179, R182). -/
def acceptForwarded (s : State) : State :=
  match s.lane.buffer with
  | none => s
  | some r =>
    { s with
      lane :=
        { s.lane with
          queue := s.lane.queue ++ [r]
          buffer := none
          conflict := s.lane.conflict || r.source = s.lane.address.setWidth 8 }
      out := { s.out with laneDown := true } }

/-- A slot of the reply queue has become free (R180): a lone claimant takes it, and where both wait the grant memory decides
and then names the other. -/
def grantSlot (s : State) : State :=
  match s.lane.buffer.isSome, processorWaits s, s.lane.grant with
  | true, true, .forward => acceptForwarded { s with lane := { s.lane with grant := .own } }
  | true, true, .own => State.process { s with lane := { s.lane with grant := .forward } }
  | true, false, _ => acceptForwarded s
  | false, true, _ => s.process
  | false, false, _ => s

/-- The oldest record leaves the reply queue as accepted upstream (R178). -/
def finishTransfer (s : State) : State :=
  match s.lane.queue with
  | [] => s
  | r :: rest =>
    grantSlot
      { s with
        lane := { s.lane with queue := rest, sending := false }
        out := { s.out with laneUp := some r } }

/-- A downstream transfer ends with its record discarded (R179). -/
def loseRecord (s : State) : State :=
  State.raise { s with out := { s.out with laneDown := true } } .returnCrc

/-- A record received whole while the receive buffer is free (R179, R180). -/
def receiveRecord (s : State) (bs : List Byte) : State :=
  match parseRecord bs with
  | none => loseRecord s
  | some r =>
    let s1 : State := { s with lane := { s.lane with buffer := some r } }
    if replyFull s then s1 else acceptForwarded s1

end Sys2Proof.Machine
end

