-- ==== Sys2Proof/Machine/InputRows.lean ====
section
/-! DEFINITION. The rows of the input port and of the node's timers (R141–R155, R167–R169). A line's role follows from its
position in the input frame and its line kind byte (R167, R194), whichever row brings it (assumption 17). The through port
repeats every line and mark, also while RESETn is asserted (R168, R193). -/

namespace Sys2Proof.Machine

/-- The line kind byte PACKET (R194, section 11.2). -/
def kindPacket : Byte := 0x02

/-- The line kind byte ACTIVE. -/
def kindActive : Byte := 0x01

/-- A header line ends, and the Command Processor runs once the frame it may begin is in progress (R141, R172). -/
def headerArrives (s : State) (bs : List Byte) : State := (headerEnd s bs).process

/-- A line after the header line: a PACKET line is read before the first ACTIVE line, an ACTIVE line always, any other line
is not read (R167, R194). -/
def laterLine (s : State) (active : Nat) : List Byte → State
  | [] => s
  | kind :: bs =>
    if kind = kindPacket then (if active = 0 then packetBytes s bs else s)
    else if kind = kindActive then activeArrives s bs
    else s

/-- A line has arrived whole, by its position in the input frame (R167). -/
def readLine (s : State) (line : List Byte) : State :=
  match s.receiver.position with
  | .outside => s
  | .awaitHeader => headerArrives s line
  | .lines active => laterLine s active line

/-- A line arrives: it is repeated, and read unless RESETn is asserted (R168, R193). -/
def lineArrives (s : State) (line : List Byte) : State :=
  let s1 := s.repeatThrough (.line line)
  if s.resetn then s1 else readLine s1 line

/-- The bytes of a PACKET line cut short: nothing of the frame's active lines may have arrived (R169). -/
def cutPacket (s : State) (active : Nat) : List Byte → State
  | [] => s
  | kind :: bs => if kind = kindPacket ∧ active = 0 then packetBytes s bs else s

/-- A line cut short by a mark or by the loss of the signal: a header line ends there (R167), a packet that has not arrived
whole fails its check (R169), and an ACTIVE line has not arrived (R115). -/
def cutLine (s : State) (cut : Option (List Byte)) : State :=
  match s.receiver.position, cut with
  | .awaitHeader, some bs => headerArrives s bs
  | .lines active, some bs => cutPacket s active bs
  | _, _ => s

/-- HEADER_LINE_END (R141). -/
def execHeaderLineEnd (line : List Byte) (pins : Pins) (s : State) : Host.Outcome State Fault Refusal :=
  .next (lineArrives (s.begin.latch pins) line)

/-- FRAME_START_MARK (R145, R167): it cuts a line in progress, stops input lines still arriving, and begins an input frame. -/
def execFrameStartMark (cut : Option (List Byte)) (pins : Pins) (s : State) : Host.Outcome State Fault Refusal :=
  let s1 := ((s.begin.latch pins).repeatCut cut).repeatThrough .mark
  if s.resetn then .next s1
  else
    let s2 := stopInput (cutLine s1 cut)
    .next { s2 with receiver := { s2.receiver with position := .awaitHeader } }

/-- PACKET_LINE (R167, R169). -/
def execPacketLine (line : List Byte) (pins : Pins) (s : State) : Host.Outcome State Fault Refusal :=
  .next (lineArrives (s.begin.latch pins) line)

/-- ACTIVE_LINE (R103, R113, R114, R145, R167). -/
def execActiveLine (line : List Byte) (s : State) : Host.Outcome State Fault Refusal := .next (lineArrives s.begin line)

/-- INPUT_SIGNAL_LOSS (R145, R167). -/
def execInputSignalLoss (cut : Option (List Byte)) (pins : Pins) (s : State) : Host.Outcome State Fault Refusal :=
  let s1 := (s.begin.latch pins).repeatCut cut
  if s.resetn then .next s1 else .next (stopInput (cutLine s1 cut))

/-- LINE_GAP_TIMEOUT (R145): it concerns only a header frame whose input lines are arriving (assumption 21). -/
def execLineGapTimeout (cut : Option (List Byte)) (pins : Pins) (s : State) : Host.Outcome State Fault Refusal :=
  let s1 := (s.begin.latch pins).repeatCut cut
  if inputRunning s then .next (stopInput (cutLine s1 cut)) else .next s1

/-- HEADER_TIMER_EXPIRES (R142, R146, R149): the header timer in LIVE and LOSS_WAIT. -/
def execHeaderTimerExpires (pins : Pins) (s : State) : Host.Outcome State Fault Refusal :=
  let s1 := s.begin.latch pins
  match s.timing.headerTimer, s.timing.link with
  | true, .live | true, .lossWait => .next (missFrame s1 .headerTimer).process
  | _, _ => .next s1

/-- GAP_TIMER_EXPIRES (R148, R150): the header timer in SEARCH and STANDALONE; it does not start again by itself. -/
def execGapTimerExpires (s : State) : Host.Outcome State Fault Refusal :=
  let s1 := s.begin
  match s.timing.headerTimer, s.timing.link with
  | true, .search | true, .standalone => .next { s1 with timing := { s1.timing with good := 0, headerTimer := false } }
  | _, _ => .next s1

/-- LOCAL_FRAME_TIMER_EXPIRES (R140, R143). -/
def execLocalFrameTimerExpires (pins : Pins) (s : State) : Host.Outcome State Fault Refusal :=
  let s1 := s.begin.latch pins
  match s.timing.localTimer, s.timing.link with
  | true, .search | true, .standalone => .next (frameStart s1 .localTimer false).process
  | _, _ => .next s1

/-- LOCAL_LINE_TIMER (R144). -/
def execLocalLineTimer (s : State) : Host.Outcome State Fault Refusal := .next (localLine s.begin)

/-- CLOCK_SECOND_TICK (R154). -/
def execClockSecondTick (s : State) : Host.Outcome State Fault Refusal :=
  let s1 := s.begin
  if s.resetn then .next s1 else .next { s1 with timing := tickClock s1.timing }

end Sys2Proof.Machine
end

