-- ==== Sys2Proof/Machine/LaneRows.lean ====
section
/-! DEFINITION. The rows of the return lane (R178–R182) and of the RESETn pin (R193). -/

namespace Sys2Proof.Machine

/-- The upstream neighbour's hold stands at this level. -/
def State.hold (s : State) (level : Bool) : State := { s with lane := { s.lane with upstreamHold := level } }

/-- UPSTREAM_TRANSFER_START (R178): with a record queued, no transfer in progress and no hold, a transfer begins. -/
def execUpstreamTransferStart (hold : Bool) (s : State) : Host.Outcome State Fault Refusal :=
  let s1 := s.begin.hold hold
  if s.lane.queue.isEmpty || s.lane.sending || hold then .next s1
  else .next { s1 with lane := { s1.lane with sending := true } }

/-- UPSTREAM_TRANSFER_DONE (R174, R178, R180): the record in transfer is accepted and its slot is granted. -/
def execUpstreamTransferDone (pins : Pins) (s : State) : Host.Outcome State Fault Refusal :=
  let s1 := s.begin.latch pins
  if s.lane.sending then .next (finishTransfer s1) else .next s1

/-- DOWNSTREAM_RECORD_RECEIVED (R179, R180, R182). While the node holds its downstream neighbour off, no record is received. -/
def execDownstreamRecordReceived (record : List Byte) (s : State) : Host.Outcome State Fault Refusal :=
  if holdsDownstream s then .next s.begin else .next (receiveRecord s.begin record)

/-- RESETN_ASSERT (R193). -/
def execResetnAssert (s : State) : Host.Outcome State Fault Refusal :=
  if s.resetn then .next s.begin else .next (holdReset s.begin)

/-- RESETN_RELEASE (R181, R193). -/
def execResetnRelease (pins : Pins) (s : State) : Host.Outcome State Fault Refusal :=
  let s1 := s.begin.latch pins
  if s.resetn then .next (releaseReset s1) else .next s1

/-- DOWNSTREAM_RECORD_CUT_SHORT (R179): it is handled as a record whose CRC fails. -/
def execDownstreamRecordCutShort (s : State) : Host.Outcome State Fault Refusal :=
  if holdsDownstream s then .next s.begin else .next (loseRecord s.begin)

/-- UPSTREAM_TRANSFER_CUT (R179): the transfer ends not accepted, and the record is kept to be sent again. -/
def execUpstreamTransferCut (hold : Bool) (s : State) : Host.Outcome State Fault Refusal :=
  let s1 := s.begin.hold hold
  .next { s1 with lane := { s1.lane with sending := false } }

end Sys2Proof.Machine
end

