-- ==== Sys2Proof/Machine/PacketRows.lean ====
section
/-! DEFINITION. The thirty-four packet rows. Each is the arrival at Packet Intake of a packet whose CRC has checked and which
carries the command (assumption 1): the target test, the intake queue, and the Command Processor, which takes the packet at
once unless it is stalled or no frame is in progress (R170–R174). What the command does when it is taken is its carry
definition. -/

namespace Sys2Proof.Machine

/-- A packet arrives while the part is not held in reset; no packet is accepted while RESETn is asserted (R193). -/
def arrive (s : State) (h : PacketHead) (code : Byte) (payload : List Byte) : State :=
  if s.resetn then s else packetArrives s ⟨h, code, payload⟩

/-! ### The staged class -/

/-- ITEM_PUT (R8). -/
def execItemPut (h : PacketHead) (payload : List Byte) (s : State) : Host.Outcome State Fault Refusal :=
  .next (arrive s.begin h 0x10 payload)

/-- ITEM_DROP (R9). -/
def execItemDrop (h : PacketHead) (payload : List Byte) (s : State) : Host.Outcome State Fault Refusal :=
  .next (arrive s.begin h 0x11 payload)

/-- COLUMN_PUT (R10). -/
def execColumnPut (h : PacketHead) (payload : List Byte) (s : State) : Host.Outcome State Fault Refusal :=
  .next (arrive s.begin h 0x12 payload)

/-- FORMAT_PUT (R12). -/
def execFormatPut (h : PacketHead) (payload : List Byte) (s : State) : Host.Outcome State Fault Refusal :=
  .next (arrive s.begin h 0x13 payload)

/-- TILE_PUT (R18). -/
def execTilePut (h : PacketHead) (payload : List Byte) (s : State) : Host.Outcome State Fault Refusal :=
  .next (arrive s.begin h 0x14 payload)

/-- TILE_DROP (R19). -/
def execTileDrop (h : PacketHead) (payload : List Byte) (s : State) : Host.Outcome State Fault Refusal :=
  .next (arrive s.begin h 0x15 payload)

/-- PAGE_WIPE (R20). -/
def execPageWipe (h : PacketHead) (payload : List Byte) (s : State) : Host.Outcome State Fault Refusal :=
  .next (arrive s.begin h 0x16 payload)

/-- SCHED_PUT (R22). -/
def execSchedPut (h : PacketHead) (payload : List Byte) (s : State) : Host.Outcome State Fault Refusal :=
  .next (arrive s.begin h 0x17 payload)

/-- STAGE_COPY (R28). -/
def execStageCopy (h : PacketHead) (payload : List Byte) (s : State) : Host.Outcome State Fault Refusal :=
  .next (arrive s.begin h 0x18 payload)

/-- AUDIT (R30). -/
def execAudit (h : PacketHead) (payload : List Byte) (s : State) : Host.Outcome State Fault Refusal :=
  .next (arrive s.begin h 0x19 payload)

/-- TAKE (R40, R41). -/
def execTake (h : PacketHead) (payload : List Byte) (s : State) : Host.Outcome State Fault Refusal :=
  .next (arrive s.begin h 0x1A payload)

/-- TAKE_CANCEL (R46). -/
def execTakeCancel (h : PacketHead) (payload : List Byte) (s : State) : Host.Outcome State Fault Refusal :=
  .next (arrive s.begin h 0x1B payload)

/-! ### The immediate class -/

/-- STOCK (R24). -/
def execStock (h : PacketHead) (payload : List Byte) (s : State) : Host.Outcome State Fault Refusal :=
  .next (arrive s.begin h 0x20 payload)

/-- FORCE (R57). -/
def execForce (h : PacketHead) (payload : List Byte) (s : State) : Host.Outcome State Fault Refusal :=
  .next (arrive s.begin h 0x21 payload)

/-- HIGHLIGHT (R133). -/
def execHighlight (h : PacketHead) (payload : List Byte) (s : State) : Host.Outcome State Fault Refusal :=
  .next (arrive s.begin h 0x22 payload)

/-- BACKLIGHT (R164). -/
def execBacklight (h : PacketHead) (payload : List Byte) (s : State) : Host.Outcome State Fault Refusal :=
  .next (arrive s.begin h 0x23 payload)

/-- CONFIG_PUT (R185). -/
def execConfigPut (h : PacketHead) (payload : List Byte) (s : State) : Host.Outcome State Fault Refusal :=
  .next (arrive s.begin h 0x24 payload)

/-- GAMMA_PUT (R159). -/
def execGammaPut (h : PacketHead) (payload : List Byte) (s : State) : Host.Outcome State Fault Refusal :=
  .next (arrive s.begin h 0x25 payload)

/-! ### The memory class -/

/-- PHOTO_OPEN (R93). -/
def execPhotoOpen (h : PacketHead) (payload : List Byte) (s : State) : Host.Outcome State Fault Refusal :=
  .next (arrive s.begin h 0x30 payload)

/-- PHOTO_DROP (R94). -/
def execPhotoDrop (h : PacketHead) (payload : List Byte) (s : State) : Host.Outcome State Fault Refusal :=
  .next (arrive s.begin h 0x31 payload)

/-- CAPTURE (R100, R101). -/
def execCapture (h : PacketHead) (payload : List Byte) (s : State) : Host.Outcome State Fault Refusal :=
  .next (arrive s.begin h 0x32 payload)

/-- GLYPH_LOAD (R98). -/
def execGlyphLoad (h : PacketHead) (payload : List Byte) (s : State) : Host.Outcome State Fault Refusal :=
  .next (arrive s.begin h 0x33 payload)

/-- CAPTURE_FLUSH (R109). -/
def execCaptureFlush (h : PacketHead) (payload : List Byte) (s : State) : Host.Outcome State Fault Refusal :=
  .next (arrive s.begin h 0x34 payload)

/-! ### The node class -/

/-- QUERY of kind NODE (R186, R187). -/
def execQueryNode (h : PacketHead) (payload : List Byte) (s : State) : Host.Outcome State Fault Refusal :=
  .next (arrive s.begin h 0x40 payload)

/-- QUERY of kind ITEM (R186, R188). -/
def execQueryItem (h : PacketHead) (payload : List Byte) (s : State) : Host.Outcome State Fault Refusal :=
  .next (arrive s.begin h 0x40 payload)

/-- QUERY of kind TILE (R139, R186). -/
def execQueryTile (h : PacketHead) (payload : List Byte) (s : State) : Host.Outcome State Fault Refusal :=
  .next (arrive s.begin h 0x40 payload)

/-- QUERY of kind PHOTO (R111, R186). -/
def execQueryPhoto (h : PacketHead) (payload : List Byte) (s : State) : Host.Outcome State Fault Refusal :=
  .next (arrive s.begin h 0x40 payload)

/-- QUERY of kind STAGING (R186, R189). -/
def execQueryStaging (h : PacketHead) (payload : List Byte) (s : State) : Host.Outcome State Fault Refusal :=
  .next (arrive s.begin h 0x40 payload)

/-- QUERY of kind SCHEDULE (R64, R186). -/
def execQuerySchedule (h : PacketHead) (payload : List Byte) (s : State) : Host.Outcome State Fault Refusal :=
  .next (arrive s.begin h 0x40 payload)

/-- QUERY of kind GLYPH (R111, R186). -/
def execQueryGlyph (h : PacketHead) (payload : List Byte) (s : State) : Host.Outcome State Fault Refusal :=
  .next (arrive s.begin h 0x40 payload)

/-- NODE_RESET of scope TABLES (R190, R191). -/
def execNodeResetTables (h : PacketHead) (payload : List Byte) (s : State) : Host.Outcome State Fault Refusal :=
  .next (arrive s.begin h 0x41 payload)

/-- NODE_RESET of scope FULL (R190, R192); the pins stand at the levels given. -/
def execNodeResetFull (h : PacketHead) (payload : List Byte) (pins : Pins) (s : State) :
    Host.Outcome State Fault Refusal :=
  .next (arrive (s.begin.latch pins) h codeNodeReset payload)

/-- RESTRAP (R183); the pins stand at the levels given. -/
def execRestrap (h : PacketHead) (payload : List Byte) (pins : Pins) (s : State) : Host.Outcome State Fault Refusal :=
  .next (arrive (s.begin.latch pins) h codeRestrap payload)

/-- A packet with an unassigned command code (R172). -/
def execUnknownCommand (h : PacketHead) (code : Byte) (payload : List Byte) (s : State) :
    Host.Outcome State Fault Refusal :=
  .next (arrive s.begin h code payload)

end Sys2Proof.Machine
end

