-- ==== Sys2Proof/Machine/Dispatch.lean ====
section
/-! DEFINITION. One arm per command: the meaning of each row of spec/opcode_table.json. -/

namespace Sys2Proof.Machine

def exec (i : Instr) (s : State) : Host.Outcome State Fault Refusal :=
  match i with
  | .itemPut h payload => Sys2Proof.Machine.execItemPut h payload s
  | .itemDrop h payload => Sys2Proof.Machine.execItemDrop h payload s
  | .columnPut h payload => Sys2Proof.Machine.execColumnPut h payload s
  | .formatPut h payload => Sys2Proof.Machine.execFormatPut h payload s
  | .tilePut h payload => Sys2Proof.Machine.execTilePut h payload s
  | .tileDrop h payload => Sys2Proof.Machine.execTileDrop h payload s
  | .pageWipe h payload => Sys2Proof.Machine.execPageWipe h payload s
  | .schedPut h payload => Sys2Proof.Machine.execSchedPut h payload s
  | .stageCopy h payload => Sys2Proof.Machine.execStageCopy h payload s
  | .audit h payload => Sys2Proof.Machine.execAudit h payload s
  | .take h payload => Sys2Proof.Machine.execTake h payload s
  | .takeCancel h payload => Sys2Proof.Machine.execTakeCancel h payload s
  | .stock h payload => Sys2Proof.Machine.execStock h payload s
  | .force h payload => Sys2Proof.Machine.execForce h payload s
  | .highlight h payload => Sys2Proof.Machine.execHighlight h payload s
  | .backlight h payload => Sys2Proof.Machine.execBacklight h payload s
  | .configPut h payload => Sys2Proof.Machine.execConfigPut h payload s
  | .gammaPut h payload => Sys2Proof.Machine.execGammaPut h payload s
  | .photoOpen h payload => Sys2Proof.Machine.execPhotoOpen h payload s
  | .photoDrop h payload => Sys2Proof.Machine.execPhotoDrop h payload s
  | .capture h payload => Sys2Proof.Machine.execCapture h payload s
  | .glyphLoad h payload => Sys2Proof.Machine.execGlyphLoad h payload s
  | .captureFlush h payload => Sys2Proof.Machine.execCaptureFlush h payload s
  | .queryNode h payload => Sys2Proof.Machine.execQueryNode h payload s
  | .queryItem h payload => Sys2Proof.Machine.execQueryItem h payload s
  | .queryTile h payload => Sys2Proof.Machine.execQueryTile h payload s
  | .queryPhoto h payload => Sys2Proof.Machine.execQueryPhoto h payload s
  | .queryStaging h payload => Sys2Proof.Machine.execQueryStaging h payload s
  | .querySchedule h payload => Sys2Proof.Machine.execQuerySchedule h payload s
  | .queryGlyph h payload => Sys2Proof.Machine.execQueryGlyph h payload s
  | .nodeResetTables h payload => Sys2Proof.Machine.execNodeResetTables h payload s
  | .nodeResetFull h payload pins => Sys2Proof.Machine.execNodeResetFull h payload pins s
  | .restrap h payload pins => Sys2Proof.Machine.execRestrap h payload pins s
  | .unknownCommand h code payload => Sys2Proof.Machine.execUnknownCommand h code payload s
  | .headerLineEnd line pins => Sys2Proof.Machine.execHeaderLineEnd line pins s
  | .frameStartMark cut pins => Sys2Proof.Machine.execFrameStartMark cut pins s
  | .packetLine line pins => Sys2Proof.Machine.execPacketLine line pins s
  | .activeLine line => Sys2Proof.Machine.execActiveLine line s
  | .inputSignalLoss cut pins => Sys2Proof.Machine.execInputSignalLoss cut pins s
  | .lineGapTimeout cut pins => Sys2Proof.Machine.execLineGapTimeout cut pins s
  | .headerTimerExpires pins => Sys2Proof.Machine.execHeaderTimerExpires pins s
  | .gapTimerExpires => Sys2Proof.Machine.execGapTimerExpires s
  | .localFrameTimerExpires pins => Sys2Proof.Machine.execLocalFrameTimerExpires pins s
  | .localLineTimer => Sys2Proof.Machine.execLocalLineTimer s
  | .clockSecondTick => Sys2Proof.Machine.execClockSecondTick s
  | .upstreamTransferStart hold => Sys2Proof.Machine.execUpstreamTransferStart hold s
  | .upstreamTransferDone pins => Sys2Proof.Machine.execUpstreamTransferDone pins s
  | .downstreamRecordReceived record => Sys2Proof.Machine.execDownstreamRecordReceived record s
  | .resetnAssert => Sys2Proof.Machine.execResetnAssert s
  | .resetnRelease pins => Sys2Proof.Machine.execResetnRelease pins s
  | .downstreamRecordCutShort => Sys2Proof.Machine.execDownstreamRecordCutShort s
  | .upstreamTransferCut hold => Sys2Proof.Machine.execUpstreamTransferCut hold s

end Sys2Proof.Machine
end

