-- ==== Sys2Proof/Safety.lean ====
section
/-! DEFINITION. What a safe run is, in the terms the statements use: the bounds and the agreements that the spec gives the
node's state at every moment. -/

namespace Sys2Proof.Machine

/-- The queues keep their capacities (R99, R171, R178). -/
def QueuesBounded (s : State) : Prop :=
  s.intake.length ≤ Config.intakeCapacity ∧ s.lane.queue.length ≤ Config.replyCapacity ∧
  s.capture.queue.length ≤ Config.captureCapacity

/-- The counts of the Frame Timing Unit and the clock stand in their ranges, and a count that does not belong to the link
state is 0 (R140, R146, R148–R151, R154). -/
def TimingInRange (t : FrameTiming) : Prop :=
  t.good < 8 ∧ t.miss < 3 ∧ t.hour < 24 ∧ t.minute < 60 ∧ t.second < 60 ∧
  (t.link ≠ .lossWait → t.miss = 0) ∧ (t.link = .live ∨ t.link = .lossWait → t.good = 0)

/-- While the panel is ABSENT the backlight level is 0, and the debounce count stays below 4 (R161, R165, R166). -/
def PanelSafe (o : OutputStage) : Prop := (o.panel = .absent → o.level = 0) ∧ o.debounce < 4

/-- The audit progress exists while the staged state is AUDITING (R29); no audit runs while a take is pending (R42), and a
take is pending only in LIVE and LOSS_WAIT (R40, R44). -/
def TakeSafe (s : State) : Prop :=
  (s.audit.progress.isSome ↔ s.tables.stagedState = .auditing) ∧
  (s.tables.pendingTake.isSome →
    s.tables.stagedState ≠ .auditing ∧ (s.timing.link = .live ∨ s.timing.link = .lossWait))

/-- Every block of picture memory is free or belongs to exactly one photo, once (R87, R88). -/
def BlocksPartitioned (p : PhotoStore) : Prop :=
  sortedKeys p.directory = true ∧
  List.Perm (p.free ++ p.directory.flatMap fun e => e.2.blocks) (List.range Config.blockCount)

/-- A photo has a size within 1–512 each way and a block list that covers its rectangle (R87, R89). -/
def PhotoSized (r : PhotoRec) : Prop :=
  1 ≤ r.w ∧ r.w ≤ 512 ∧ 1 ≤ r.h ∧ r.h ≤ 512 ∧ r.blocks.length = ((r.w + 31) / 32) * ((r.h + 31) / 32)

/-- Every photo of the directory has its size and its blocks. -/
def PhotosSized (p : PhotoStore) : Prop := ∀ e ∈ p.directory, PhotoSized e.2

/-- A request that is a strip is of a photo with a record, lies within its height and has at least one row (R94, R100, R106). -/
def StripInPhoto (directory : Table PhotoRec) (q : CaptureRequest) : Prop :=
  ∀ id x y row rows, q = .strip id x y row rows → 1 ≤ rows ∧ ∃ r, tget directory id = some r ∧ row + rows ≤ r.h

/-- Every strip of the Capture Engine, queued or in flight, stands in its photo. -/
def StripsInPhotos (s : State) : Prop := ∀ q ∈ allRequests s.capture, StripInPhoto s.photos.directory q

/-- The stores of fixed size keep it: 512 stock entries, 256 reference counts, 48 glyph slots, three gamma tables of 256
entries (R23, R91, R96, R157). -/
def StoresSized (s : State) : Prop :=
  s.tables.stock.length = 512 ∧ s.photos.refCounts.length = 256 ∧ s.glyphs.slots.length = 48 ∧
  s.output.gamma.red.length = 256 ∧ s.output.gamma.green.length = 256 ∧ s.output.gamma.blue.length = 256

/-- The tables of a bank hold one record for each id, in ascending order (R1, R4, R13): items by id, tiles by page and tile id. -/
def BankSorted (b : Bank) : Prop := sortedKeys b.items = true ∧ sortedKeys b.tiles = true

/-- Both banks hold their records in order. -/
def BanksSorted (s : State) : Prop := BankSorted s.tables.live ∧ BankSorted s.tables.staged

/-! ### Records within their ranges -/

/-- An item record within the ranges of R4 to R7, under an id. -/
def ItemInRange (id : Nat) (r : ItemRec) : Prop :=
  id < 512 ∧ (∀ p, r.photo = some p → p < 256) ∧
  match r.body with
  | .simple prices => ∀ c, c < 4 → ∀ v, columnGet prices c = some v → v ≤ 999999
  | .combo components discount =>
    1 ≤ components.length ∧ components.length ≤ 4 ∧ discount ≤ 999999 ∧
    ∀ c ∈ components, c.item < 512 ∧ c.item ≠ id ∧ 1 ≤ c.quantity ∧ c.quantity ≤ 9

/-- A tile record within the ranges of R13 to R17, under its page and tile id. -/
def TileInRange (page id : Nat) (t : TileRec) : Prop :=
  page < 8 ∧ id < 48 ∧ -2048 ≤ t.x ∧ t.x ≤ 4095 ∧ -2048 ≤ t.y ∧ t.y ≤ 4095 ∧
  1 ≤ t.w ∧ t.w ≤ 2048 ∧ 1 ≤ t.h ∧ t.h ≤ 2048 ∧ (∀ i, t.item = some i → i < 512) ∧
  match t.body with
  | .photo own ox oy =>
    (∀ p, own = some p → p < 256) ∧ -512 ≤ ox ∧ ox ≤ 2047 ∧ -512 ≤ oy ∧ oy ≤ 2047
  | .price style => t.item.isSome = true ∧ style.font ≤ 3 ∧ style.textTop ≤ 2047 ∧ style.tracking ≤ 15
  | .panel => True

/-- A price format within the ranges of R11. -/
def FormatInRange (f : PriceFormat) : Prop :=
  f.step ∈ [1, 2, 5, 10, 25, 50, 100] ∧ f.ending < f.step ∧ (f.ending ≠ 0 → f.rounding = .ending) ∧ f.taxRate ≤ 5000

/-- A schedule within the ranges of R21. -/
def ScheduleInRange (l : List SchedEntry) : Prop :=
  l.length ≤ 16 ∧ (∀ e ∈ l, e.start ≤ 1439 ∧ e.page ≤ 7 ∧ e.column ≤ 3) ∧ List.Pairwise (fun a b => a.start < b.start) l

/-- Node settings within the ranges of R184. -/
def SettingsInRange (n : NodeSettings) : Prop :=
  n.vx ≤ 8191 ∧ n.vy ≤ 4095 ∧ 1 ≤ n.vw ∧ n.vw ≤ 2048 ∧ 1 ≤ n.vh ∧ n.vh ≤ 2048 ∧ 24 ≤ n.rate ∧ n.rate ≤ 60 ∧
  20 ≤ n.timeout ∧ n.timeout ≤ 200 ∧ 1 ≤ n.fadeStep.toNat

/-- A highlight within the ranges of R132. -/
def HighlightInRange (h : Highlight) : Prop := h.tile ≤ 47 ∧ h.margin ≤ 31 ∧ 1 ≤ h.thickness ∧ h.thickness ≤ 16

/-- A bank whose records stand in their ranges under ids in theirs (R1, R10 and the rules of each record). -/
def BankInRange (b : Bank) : Prop :=
  (∀ e ∈ b.items, ItemInRange e.1 e.2) ∧ (∀ e ∈ b.tiles, TileInRange (e.1 / 48) (e.1 % 48) e.2) ∧
  (∀ c, c < 4 → 500 ≤ columnGet b.factors c ∧ columnGet b.factors c ≤ 2000) ∧ FormatInRange b.format ∧
  ScheduleInRange b.schedule

/-- The settings, the highlights and an override stand in their ranges (R56, R132, R184). -/
def ContextInRange (c : FrameContext) : Prop :=
  SettingsInRange c.settings ∧ (∀ h, c.high0 = some h ∨ c.high1 = some h → HighlightInRange h) ∧
  ∀ o, c.override = some o → o.page ≤ 7 ∧ o.column ≤ 3

/-- Both banks and the frame context stand in their ranges (R4–R22, R56, R132, R184). -/
def RecordsInRange (s : State) : Prop :=
  BankInRange s.tables.live ∧ BankInRange s.tables.staged ∧ ContextInRange s.context

/-! ### A safe state -/

/-- A state the spec allows, as far as these rules say. -/
def Safe (s : State) : Prop :=
  QueuesBounded s ∧ TimingInRange s.timing ∧ PanelSafe s.output ∧ TakeSafe s ∧ BlocksPartitioned s.photos ∧
  PhotosSized s.photos ∧ StripsInPhotos s ∧ Memory.wf s.photos.memory = true ∧ StoresSized s ∧ BanksSorted s ∧
  RecordsInRange s

/-! ### Packet rows -/

/-- The packet that a packet row brings: its addressing, command code and payload (section 11.6). -/
def packetOf : Instr → Option Packet
  | .itemPut h p => some ⟨h, 0x10, p⟩
  | .itemDrop h p => some ⟨h, 0x11, p⟩
  | .columnPut h p => some ⟨h, 0x12, p⟩
  | .formatPut h p => some ⟨h, 0x13, p⟩
  | .tilePut h p => some ⟨h, 0x14, p⟩
  | .tileDrop h p => some ⟨h, 0x15, p⟩
  | .pageWipe h p => some ⟨h, 0x16, p⟩
  | .schedPut h p => some ⟨h, 0x17, p⟩
  | .stageCopy h p => some ⟨h, 0x18, p⟩
  | .audit h p => some ⟨h, 0x19, p⟩
  | .take h p => some ⟨h, 0x1A, p⟩
  | .takeCancel h p => some ⟨h, 0x1B, p⟩
  | .stock h p => some ⟨h, 0x20, p⟩
  | .force h p => some ⟨h, 0x21, p⟩
  | .highlight h p => some ⟨h, 0x22, p⟩
  | .backlight h p => some ⟨h, 0x23, p⟩
  | .configPut h p => some ⟨h, 0x24, p⟩
  | .gammaPut h p => some ⟨h, 0x25, p⟩
  | .photoOpen h p => some ⟨h, 0x30, p⟩
  | .photoDrop h p => some ⟨h, 0x31, p⟩
  | .capture h p => some ⟨h, 0x32, p⟩
  | .glyphLoad h p => some ⟨h, 0x33, p⟩
  | .captureFlush h p => some ⟨h, 0x34, p⟩
  | .queryNode h p | .queryItem h p | .queryTile h p | .queryPhoto h p | .queryStaging h p | .querySchedule h p
  | .queryGlyph h p => some ⟨h, 0x40, p⟩
  | .nodeResetTables h p => some ⟨h, 0x41, p⟩
  | .nodeResetFull h p _ => some ⟨h, 0x41, p⟩
  | .restrap h p _ => some ⟨h, 0x42, p⟩
  | .unknownCommand h code p => some ⟨h, code, p⟩
  | .headerLineEnd _ _ | .frameStartMark _ _ | .packetLine _ _ | .activeLine _ | .inputSignalLoss _ _
  | .lineGapTimeout _ _ | .headerTimerExpires _ | .gapTimerExpires | .localFrameTimerExpires _ | .localLineTimer
  | .clockSecondTick | .upstreamTransferStart _ | .upstreamTransferDone _ | .downstreamRecordReceived _
  | .resetnAssert | .resetnRelease _ | .downstreamRecordCutShort | .upstreamTransferCut _ => none

/-- The levels a row brings to the pins; where it brings none they stand as they are. -/
def pinsOf (s : State) : Instr → Pins
  | .nodeResetFull _ _ p | .restrap _ _ p | .headerLineEnd _ p | .frameStartMark _ p | .packetLine _ p
  | .inputSignalLoss _ p | .lineGapTimeout _ p | .headerTimerExpires p | .localFrameTimerExpires p
  | .upstreamTransferDone p | .resetnRelease p => p
  | _ => s.pins

/-- The state from which a row acts: nothing has yet left the part in it, and the pins stand at the row's levels. -/
def entered (s : State) (i : Instr) : State := { s with out := noOutputs, pins := pinsOf s i }

/-- The symbols of the input stream that a row brings, which the through port repeats (R168). -/
def streamOf : Instr → List StreamSymbol
  | .headerLineEnd line _ | .packetLine line _ | .activeLine line => [.line line]
  | .frameStartMark none _ => [.mark]
  | .frameStartMark (some bs) _ => [.line bs, .mark]
  | .inputSignalLoss (some bs) _ | .lineGapTimeout (some bs) _ => [.line bs]
  | _ => []

/-- The part is held in its reset state by RESETn (R193). -/
def HeldInReset (s : State) : Prop :=
  s.resetn = true ∧ s.frame = none ∧ s.timing.headerTimer = false ∧ s.timing.localTimer = false ∧ s.lane.queue = [] ∧
  s.lane.sending = false

/-- A packet that arrives now is taken as it joins: it is addressed to the node, no packet waits before it, a frame is in
progress, and its answer, if it has one, finds a free slot in the reply queue (R170–R174). -/
def TakenAtOnce (s : State) (h : PacketHead) (code : Byte) : Prop :=
  s.resetn = false ∧ targeted s h = true ∧ s.intake = [] ∧ s.frame.isSome = true ∧
  (answered s ⟨h, code, []⟩ = true → s.lane.queue.length < Config.replyCapacity)

/-- The intake queue holds packets only before the first frame start, and behind a head that waits for a slot of the reply
queue (R171, R172, R174). -/
def IntakeAtRest (s : State) : Prop :=
  s.intake = [] ∨ s.frame = none ∨
    ∃ k rest, s.intake = k :: rest ∧ answered s k = true ∧ Config.replyCapacity ≤ s.lane.queue.length

/-- What a taken command leaves: where it is answered, the state after it with its reply record enqueued and the events
cleared; otherwise the state after it (R173, R175, R176). -/
def closing (s : State) (k : Packet) (t : Taken) : State := if answered s k then reply k t else t.state

/-- `Drains s t`: the Command Processor, with the packets that wait in s, comes to rest in t. It takes them oldest first, each
carried out on the state the one before it left, until none waits or it is stalled on one that is answered while the reply
queue is full; while no frame is in progress it takes none (R172, R174). -/
inductive Drains : State → State → Prop where
  | idle (s : State) : s.frame = none ∨ s.intake = [] → Drains s s
  | stalled (s : State) (k : Packet) (rest : List Packet) : s.intake = k :: rest → answered s k = true →
    Config.replyCapacity ≤ s.lane.queue.length → Drains s s
  | taken (s t : State) (k : Packet) (rest : List Packet) : s.frame.isSome = true → s.intake = k :: rest →
    (answered s k = true → s.lane.queue.length < Config.replyCapacity) →
    Drains (closing s k (carryOut k.code k.payload { s with intake := rest })) t → Drains s t

/-- A state with new staged content after a successful staged edit (R26). -/
def staging (s : State) (b : Bank) : State :=
  { s with
    tables := { s.tables with staged := b, stagedState := .dirty }
    audit := if s.tables.stagedState = .auditing then ⟨none, .edited⟩ else s.audit }

/-- The staged edit commands (R3). -/
def stagedEditCodes : List Byte := [0x10, 0x11, 0x12, 0x13, 0x14, 0x15, 0x16, 0x17]

/-- Whether the payload of a staged edit has the length its layout requires, or its count field implies (section 11.6). -/
def editLengthOk (code : Byte) (p : List Byte) : Bool :=
  match code.toNat with
  | 0x10 => p.length = 37
  | 0x11 => p.length = 2
  | 0x12 => p.length = 3
  | 0x13 => p.length = 9
  | 0x14 => p.length = 39
  | 0x15 => p.length = 2
  | 0x16 => p.length = 1
  | 0x17 => 0 < p.length && p.length = 1 + 5 * u8 p 0
  | _ => false

/-! ### Frame starts and cut lines -/

/-- The rows that begin a frame from a state whose RESETn is not asserted: the local frame timer in SEARCH and STANDALONE
(R143), the header timer in LIVE and LOSS_WAIT (R142), and the end of a header line in LIVE and LOSS_WAIT, good or bad, or,
in SEARCH and STANDALONE, the good one that completes the good count (R142, R148–R151). A header line is the first line after
a mark, whichever row brings it (assumption 17); that the second good header in SEARCH begins a frame even before the local
frame timer first expires is the model's choice (assumption 27). -/
def BeginsFrame (s : State) : Instr → Prop
  | .localFrameTimerExpires _ =>
    s.timing.localTimer = true ∧ (s.timing.link = .search ∨ s.timing.link = .standalone)
  | .headerTimerExpires _ => s.timing.headerTimer = true ∧ (s.timing.link = .live ∨ s.timing.link = .lossWait)
  | .headerLineEnd line _ | .packetLine line _ | .activeLine line =>
    s.receiver.position = .awaitHeader ∧
    (s.timing.link = .live ∨ s.timing.link = .lossWait ∨
      ((parseHeader line).isSome = true ∧
        ((s.timing.link = .search ∧ 2 ≤ s.timing.good + 1) ∨ (s.timing.link = .standalone ∧ 8 ≤ s.timing.good + 1))))
  | _ => False

/-- What the ports carried in two events, one after the other. -/
def Outputs.followedBy (a b : Outputs) : Outputs :=
  { through := a.through ++ b.through
    composed := a.composed ++ b.composed
    panel := a.panel ++ b.panel
    laneUp := if b.laneUp.isSome then b.laneUp else a.laneUp
    laneDown := a.laneDown || b.laneDown }

/-! ### Lines -/

/-- The screen columns at which line n asks for a photo pixel of a tile: those that lie in the tile's rect, in a screen of vw
columns and vh lines, and in the photo placed at the tile's origin plus an anchor, all three (R37, R128). -/
def pixelsAsked (t : TileRec) (ox oy : Int) (r : PhotoRec) (vw vh n : Nat) : Nat :=
  ((List.range vw).filter fun x : Nat =>
    decide
      ((n < vh ∧ t.x ≤ x ∧ (x : Int) < t.x + t.w ∧ t.y ≤ n ∧ (n : Int) < t.y + t.h) ∧
        (t.x + ox ≤ x ∧ (x : Int) < t.x + ox + r.w ∧ t.y + oy ≤ n ∧ (n : Int) < t.y + oy + r.h))).length

/-- A frame tile list after a line: BUDGET_SHORT is set on the tiles degraded on it, and a flag once set stays (R130, R136). -/
def tilesAfter (granted : List (TileEntry × Bool)) : List TileEntry :=
  granted.map fun g => { g.1 with flags := { g.1.flags with budgetShort := g.1.flags.budgetShort || g.2 } }

/-! ### Requests -/

/-- Whether a request is a glyph load for the slot at a place among the 48. -/
def isLoadOf (place : Nat) : CaptureRequest → Bool
  | .strip .. => false
  | .glyph font slot .. => slotIndex font slot = place

/-! ### What the range tests of payloads refuse, read from the bytes -/

/-- ITEM_PUT's OUT_OF_RANGE (R8, R194). -/
def ItemRefused (p : List Byte) : Prop :=
  511 < u16 p 0 ∨ 1 < u8 p 2 ∨ 1 < u8 p 0x23 ∨
  (u8 p 2 = 0 ∧ ∃ c, c < 4 ∧ (1 < u8 p (3 + 4 * c) ∨ (u8 p (3 + 4 * c) = 1 ∧ 999999 < u24 p (4 + 4 * c)))) ∨
  (u8 p 2 = 1 ∧
    (u8 p 0x13 = 0 ∨ 4 < u8 p 0x13 ∨ 999999 < u24 p 0x20 ∨
      ∃ n, n < u8 p 0x13 ∧
        (511 < u16 p (0x14 + 3 * n) ∨ u16 p (0x14 + 3 * n) = u16 p 0 ∨ u8 p (0x16 + 3 * n) = 0 ∨
          9 < u8 p (0x16 + 3 * n))))

/-- TILE_PUT's OUT_OF_RANGE (R18, R194). -/
def TileRefused (p : List Byte) : Prop :=
  7 < u8 p 0 ∨ 47 < u8 p 1 ∨ 2 < u8 p 2 ∨
  s16 p 3 < -2048 ∨ 4095 < s16 p 3 ∨ s16 p 5 < -2048 ∨ 4095 < s16 p 5 ∨
  u16 p 7 = 0 ∨ 2048 < u16 p 7 ∨ u16 p 9 = 0 ∨ 2048 < u16 p 9 ∨
  1 < u8 p 0x0C ∨ (u8 p 0x0C = 1 ∧ 511 < u16 p 0x0D) ∨ (u8 p 2 = 1 ∧ u8 p 0x0C = 0) ∨
  1 < u8 p 0x0F ∨ (u8 p 0x0F = 1 ∧ u8 p 2 ≠ 0) ∨
  (u8 p 2 = 0 ∧ (s16 p 0x11 < -512 ∨ 2047 < s16 p 0x11 ∨ s16 p 0x13 < -512 ∨ 2047 < s16 p 0x13)) ∨
  2 < u8 p 0x1B ∨ 2 < u8 p 0x1C ∨ 1 < u8 p 0x15 ∨
  (u8 p 2 = 1 ∧ (3 < u8 p 0x1E ∨ 2 < u8 p 0x22 ∨ 2047 < u16 p 0x24 ∨ 15 < u8 p 0x26))

/-- FORMAT_PUT's OUT_OF_RANGE (R12, R194). -/
def FormatRefused (p : List Byte) : Prop :=
  2 < u8 p 0 ∨ (u8 p 1 ≠ 0 ∧ u8 p 1 ≠ 2) ∨ 1 < u8 p 2 ∨ 3 < u8 p 3 ∨ u8 p 4 ∉ [1, 2, 5, 10, 25, 50, 100] ∨
  u8 p 4 ≤ u8 p 5 ∨ (u8 p 5 ≠ 0 ∧ u8 p 3 ≠ 3) ∨ 1 < u8 p 6 ∨ 5000 < u16 p 7

/-- SCHED_PUT's OUT_OF_RANGE (R22). -/
def ScheduleRefused (p : List Byte) : Prop :=
  16 < u8 p 0 ∨
  (∃ n, n < u8 p 0 ∧ (1439 < u16 p (1 + 5 * n) ∨ 7 < u8 p (3 + 5 * n) ∨ 3 < u8 p (4 + 5 * n))) ∨
  ∃ n m, n < m ∧ m < u8 p 0 ∧ u16 p (1 + 5 * m) ≤ u16 p (1 + 5 * n)

/-- CONFIG_PUT's OUT_OF_RANGE (R184, R185). -/
def SettingsRefused (p : List Byte) : Prop :=
  8191 < u16 p 0 ∨ 4095 < u16 p 2 ∨ u16 p 4 = 0 ∨ 2048 < u16 p 4 ∨ u16 p 6 = 0 ∨ 2048 < u16 p 6 ∨
  u8 p 11 < 24 ∨ 60 < u8 p 11 ∨ u8 p 12 < 20 ∨ 200 < u8 p 12 ∨ 1 < u8 p 13 ∨
  (∃ n, n < 5 ∧ 1 < u8 p (14 + n)) ∨ u8 p 20 = 0

/-- GAMMA_PUT's OUT_OF_RANGE (R159). -/
def GammaRefused (p : List Byte) : Prop :=
  2 < u8 p 0 ∨ u8 p 3 = 0 ∨ 96 < u8 p 3 ∨ 255 < u16 p 1 ∨ 256 < u16 p 1 + u8 p 3 ∨
  ∃ n, n < u8 p 3 ∧ 1023 < u16 p (4 + 2 * n)

end Sys2Proof.Machine
end

