-- ==== Sys2Proof/Certificates/Slice0/Obligations.lean ====
section
/-! DEFINITION. The statements about the model, for the provers. Each docstring names the rules of spec/ it formalises and,
where it rests on a choice of the model, the log entry. -/

open Sys2Proof Sys2Proof.Machine

/-! ### The machine -/

/-- One step carries out the command at the front of the queue on the state with the queue's rest; on an empty queue the node
idles (the model's own choice, log entry 2); no command changes the commands that wait behind it (the model's own queue, log
entry 3). -/
def Obligations.StepRunsFrontCommand : Prop :=
  (∀ (c : Instr) (rest : List Instr) (s : State), s.pending = c :: rest → step s = exec c { s with pending := rest }) ∧
  (∀ s : State, s.pending = [] → step s = .next s) ∧
  ∀ (i : Instr) (s t : State), exec i s = .next t → t.pending = s.pending

/-- The state after reset is safe (R88, R140, R157, R171, R178; the panel, take, range and size clauses likewise). -/
def Obligations.ResetStateIsSafe : Prop := Safe State.reset

/-- The queues never exceed 16, 8 and 4 (R99, R171, R178). -/
def Obligations.StepKeepsQueueBounds : Prop :=
  ∀ s t : State, QueuesBounded s → step s = .next t → QueuesBounded t

/-- A packet waits in the intake queue only before the first frame start after a reset, or behind a head that is answered while
the reply queue holds 8 records; otherwise each packet is taken as it joins (R171, R172, R174). While RESETn is asserted the
node stays in its reset state (R193). -/
def Obligations.StepKeepsIntakeAtRest : Prop :=
  ∀ s t : State, (s.resetn = true → HeldInReset s) → IntakeAtRest s → step s = .next t →
    (t.resetn = true → HeldInReset t) ∧ IntakeAtRest t

/-- The counts and the clock stay in their ranges, the count that does not belong to the link state stays 0 (R140, R146,
R148–R151, R154); the backlight level is 0 whenever the panel is ABSENT, and the debounce count stays below 4 (R161, R165,
R166). -/
def Obligations.StepKeepsTimingAndPanelSafe : Prop :=
  (∀ s t : State, TimingInRange s.timing → step s = .next t → TimingInRange t.timing) ∧
  ∀ s t : State, PanelSafe s.output → step s = .next t → PanelSafe t.output

/-- An audit progresses exactly while the staged state is AUDITING; a take is pending only in LIVE and LOSS_WAIT and never
beside a running audit (R29, R42). -/
def Obligations.StepKeepsTakeSafe : Prop :=
  ∀ s t : State, TakeSafe s → step s = .next t → TakeSafe t

/-- Each block index is at every moment in exactly one place (R88); every photo has a size within 1–512 and a block list that
covers its rectangle (R87, R89); and every strip, queued or in flight, is of a photo with a record and lies within its height
(R94, R100, R106). -/
def Obligations.StepKeepsBlockPartition : Prop :=
  (∀ s t : State, BlocksPartitioned s.photos → step s = .next t → BlocksPartitioned t.photos) ∧
  (∀ s t : State, PhotosSized s.photos → step s = .next t → PhotosSized t.photos) ∧
  ∀ s t : State, StripsInPhotos s → step s = .next t → StripsInPhotos t

/-- Picture memory keeps its canonical form (the model's own form of R87's memory, log entry 5); the stock map, the
reference counts, the glyph slots and the gamma tables keep their sizes (R23, R91, R96, R157); and both banks hold one
record for each id, in ascending order (R1, R8, R14, R18). -/
def Obligations.StepKeepsStoresInForm : Prop :=
  (∀ s t : State, Memory.wf s.photos.memory = true → step s = .next t → Memory.wf t.photos.memory = true) ∧
  (∀ s t : State, StoresSized s → step s = .next t → StoresSized t) ∧
  ∀ s t : State, BanksSorted s → step s = .next t → BanksSorted t

/-- Both banks hold only records within their ranges, under ids within theirs, and schedules in ascending order; the
settings, the highlights and an override stand in theirs (R4–R6, R10, R11, R13–R17, R21, R56, R132, R184). -/
def Obligations.StepKeepsRecordsInRange : Prop :=
  ∀ s t : State, RecordsInRange s → step s = .next t → RecordsInRange t

/-- A packet changes neither the frame in progress nor anything the frame is drawn from but the photo directory and the glyph
slots: its snapshot, tile list, kept flags, timing, panel state and level stand, no pixel is written, and no line is
composed or driven; unless a NODE_RESET FULL, this packet or one that waited
before it, is taken, which leaves no frame in progress (R51, R192). -/
def Obligations.PacketsLeaveFrameInProgress : Prop :=
  ∀ (i : Instr) (k : Packet) (s t : State), packetOf i = some k → exec i s = .next t →
    t.photos.memory = s.photos.memory ∧ t.out.through = [] ∧ t.out.composed = [] ∧ t.out.panel = [] ∧
    ((t.frame = s.frame ∧ t.kept = s.kept ∧ t.timing = s.timing ∧ t.receiver = s.receiver ∧
      t.output.panel = s.output.panel ∧ t.output.level = s.output.level ∧ t.output.debounce = s.output.debounce) ∨
     ((∃ q, (q = k ∨ q ∈ s.intake) ∧ q.code = 0x41 ∧ q.payload = [1]) ∧
      t.frame = none ∧ t.kept = none ∧ t.timing = State.reset.timing ∧ t.receiver = State.reset.receiver ∧
      t.output = State.reset.output ∧ t.intake = [] ∧ t.lane.queue = []))

/-! ### Encodings -/

/-- A packet (section 11.3) and a header line (section 11.2) read back from the bytes they are sent as, whatever padding
follows, are the packet and the header; a reply record read back is the record, where its CRC is the one computed over it
(section 11.4). -/
def Obligations.PacketHeaderAndRecordReadBackAsSent : Prop :=
  (∀ (k : Packet) (padding : List Byte), k.payload.length ≤ 240 → parsePacket (encodePacket k ++ padding) = some k) ∧
  (∀ (h : Header) (padding : List Byte), h.hour < 256 → h.minute < 256 → h.second < 256 → 1 ≤ h.width →
    h.width ≤ 8192 →
    1 ≤ h.height → h.height ≤ 4096 → parseHeader (encodeHeader h ++ padding) = some h) ∧
  ∀ r : ReplyRecord, r.data.length ≤ 240 → r.crc = crc16 (recordBody r) → parseRecord (encodeRecord r) = some r

/-- An item record of 37 bytes, as QUERY ITEM sends it, is read back by ITEM_PUT as the same record, and a tile record of 39
bytes, as QUERY TILE sends it, by TILE_PUT (section 11.7). -/
def Obligations.ItemAndTileRecordsReadBack : Prop :=
  (∀ (id : Nat) (r : ItemRec), ItemInRange id r →
    (encodeItem id r).length = 37 ∧ parseItem (encodeItem id r) = some (id, r)) ∧
  ∀ (page id : Nat) (t : TileRec), TileInRange page id t →
    (encodeTile page id t).length = 39 ∧ parseTile (encodeTile page id t) = some (page, id, t)

/-! ### Intake, answers and replies -/

/-- Which packets a node takes and where a packet row's packet goes. The target test (R170): the node's own address unless
in conflict, or ALL; a packet of another node is ignored without a trace. An accepted packet that finds 16 queued raises
INTAKE_OVERRUN and is discarded; one behind a stalled head, or before the first frame start, joins the tail (R171, R174);
that the queue holds packets only then is the invariant StepKeepsIntakeAtRest. Whether a command is answered (R173):
NODE_RESET and RESTRAP never; an addressed packet unless its reply node is NONE; a broadcast at the node its reply node
names. That a packet row is the arrival of a packet is the model's choice (log entry 1). -/
def Obligations.PacketsFollowTheirAddressing : Prop :=
  (∀ (s : State) (k : Packet),
    (answered s k = true ↔
      k.code ≠ 0x41 ∧ k.code ≠ 0x42 ∧
      ((k.head.target ≠ 15 ∧ k.head.reply ≠ 15) ∨ (k.head.target = 15 ∧ k.head.reply.toNat = s.lane.address.toNat))) ∧
    (targeted s k.head = true ↔
      k.head.target = 15 ∨ (k.head.target.toNat = s.lane.address.toNat ∧ s.lane.conflict = false))) ∧
  ∀ (i : Instr) (k : Packet) (s : State), packetOf i = some k → s.resetn = false →
    (targeted s k.head = false → exec i s = .next (entered s i)) ∧
    (targeted s k.head = true →
      (s.frame = none ∨ ∃ head rest, s.intake = head :: rest ∧ answered s head = true ∧ 8 ≤ s.lane.queue.length) →
      exec i s = .next
        (if s.intake.length < 16 then { entered s i with intake := s.intake ++ [k] }
         else (entered s i).raise .intakeOverrun))

/-- The reply to a taken command (R175–R177): one record at the tail of the reply queue, with the node's address, the packet's
tag and command code, the result, the data and a CRC that checks; its summary holds the events raised and the levels of the
state the command leaves; the events are then clear and nothing else has changed. -/
def Obligations.RepliesCarryEventsAndLevels : Prop :=
  ∀ (s : State) (k : Packet) (t : Taken), answered s k = true → t.data.length ≤ 240 →
    ∃ r : ReplyRecord,
      closing s k t =
        { t.state with
          lane := { t.state.lane with queue := t.state.lane.queue ++ [r], events := noEvents } } ∧
      r.source.toNat = t.state.lane.address.toNat ∧ r.tag = k.head.tag ∧ r.command = k.code ∧
      r.result = resultCode t.result ∧ r.data = t.data ∧ parseRecord (encodeRecord r) = some r ∧
      r.summary.getLsbD 23 = t.state.lane.events.packetCrc ∧ r.summary.getLsbD 22 = t.state.lane.events.intakeOverrun ∧
      r.summary.getLsbD 21 = t.state.lane.events.returnCrc ∧ r.summary.getLsbD 20 = t.state.lane.events.linkChanged ∧
      r.summary.getLsbD 19 = t.state.lane.events.panelChanged ∧ r.summary.getLsbD 18 = t.state.lane.events.takeDone ∧
      r.summary.getLsbD 17 = t.state.lane.events.takeCancelled ∧ r.summary.getLsbD 16 = t.state.lane.events.auditDone ∧
      r.summary.getLsbD 15 = t.state.lane.events.captureDone ∧
      r.summary.getLsbD 14 = t.state.lane.events.captureFailed ∧
      (r.summary.extractLsb' 12 2).toNat = linkCode t.state.timing.link ∧
      (r.summary.extractLsb' 9 3).toNat = stagedCode t.state.tables.stagedState ∧
      (r.summary.getLsbD 8 = true ↔ t.state.output.panel = .present) ∧ r.summary.getLsbD 7 = t.state.lane.conflict ∧
      r.summary.getLsbD 6 = overflowSeen t.state ∧ r.summary.getLsbD 5 = budgetShortSeen t.state ∧
      r.summary.getLsbD 4 = t.state.tables.pendingTake.isSome ∧ r.summary.extractLsb' 0 4 = 0

/-! ### Staged edits -/

/-- The first two refusals of a staged edit, in their order, whichever edit it is (R3): BAD_LENGTH, then TAKE_PENDING, with no
change but the reply. -/
def Obligations.StagedEditsRefuseLengthThenPendingTake : Prop :=
  ∀ (i : Instr) (k : Packet) (s : State), packetOf i = some k → k.code ∈ stagedEditCodes → TakenAtOnce s k.head k.code →
    (editLengthOk k.code k.payload = false → exec i s = .next (closing s k ⟨.badLength, [], entered s i⟩)) ∧
    (editLengthOk k.code k.payload = true → s.tables.pendingTake.isSome = true →
      exec i s = .next (closing s k ⟨.takePending, [], entered s i⟩))

/-- ITEM_PUT (R8): refused OUT_OF_RANGE exactly where the rule lists it; otherwise the record of the payload replaces or joins
the staged record of its id, with the fields its kind does not hold discarded. The staged bank, the staged state and a
running audit are all that change. -/
def Obligations.ItemPutPlacesOrRefusesTheRecord : Prop :=
  ∀ (s : State) (h : PacketHead) (p : List Byte), TakenAtOnce s h 0x10 → p.length = 37 → s.tables.pendingTake = none →
    (ItemRefused p → exec (.itemPut h p) s = .next (closing s ⟨h, 0x10, p⟩ ⟨.outOfRange, [], s.begin⟩)) ∧
    (¬ ItemRefused p →
      ∃ r : ItemRec,
        exec (.itemPut h p) s =
          .next (closing s ⟨h, 0x10, p⟩
            ⟨.ok, [], staging s.begin { s.tables.staged with items := tput s.tables.staged.items (u16 p 0) r }⟩) ∧
        tget (tput s.tables.staged.items (u16 p 0) r) (u16 p 0) = some r ∧
        (∀ id, id ≠ u16 p 0 → tget (tput s.tables.staged.items (u16 p 0) r) id = tget s.tables.staged.items id) ∧
        r.photo = (if u8 p 0x23 = 1 then some (u8 p 0x24) else none) ∧
        (u8 p 2 = 0 →
          ∃ prices, r.body = .simple prices ∧
            ∀ c, c < 4 → columnGet prices c = if u8 p (3 + 4 * c) = 1 then some (u24 p (4 + 4 * c)) else none) ∧
        (u8 p 2 = 1 →
          ∃ components, r.body = .combo components (u24 p 0x20) ∧ components.length = u8 p 0x13 ∧
            ∀ n, n < u8 p 0x13 → components[n]? = some ⟨u16 p (0x14 + 3 * n), u8 p (0x16 + 3 * n)⟩))

/-- TILE_PUT (R18): refused OUT_OF_RANGE exactly where the rule lists it; otherwise the record of the payload replaces or joins
the staged tile of its page and tile id, with the anchor or style its kind does not hold discarded. -/
def Obligations.TilePutPlacesOrRefusesTheRecord : Prop :=
  ∀ (s : State) (h : PacketHead) (p : List Byte), TakenAtOnce s h 0x14 → p.length = 39 → s.tables.pendingTake = none →
    (TileRefused p → exec (.tilePut h p) s = .next (closing s ⟨h, 0x14, p⟩ ⟨.outOfRange, [], s.begin⟩)) ∧
    (¬ TileRefused p →
      ∃ t : TileRec,
        exec (.tilePut h p) s =
          .next (closing s ⟨h, 0x14, p⟩
            ⟨.ok, [], staging s.begin
              { s.tables.staged with tiles := tput s.tables.staged.tiles (u8 p 0 * 48 + u8 p 1) t }⟩) ∧
        (t.x = s16 p 3 ∧ t.y = s16 p 5 ∧ t.w = u16 p 7 ∧ t.h = u16 p 9 ∧ t.z = byteAt p 0x0B ∧
          t.item = (if u8 p 0x0C = 1 then some (u16 p 0x0D) else none) ∧
          t.fill = (if u8 p 0x15 = 1 then some ⟨colorAt p 0x16, byteAt p 0x19⟩ else none) ∧
          t.opacity = byteAt p 0x1A ∧ showWhenCode t.showWhen = u8 p 0x1B ∧ treatmentCode t.treatment = u8 p 0x1C ∧
          t.blink = byteAt p 0x1D) ∧
        (u8 p 2 = 0 →
          t.body = .photo (if u8 p 0x0F = 1 then some (u8 p 0x10) else none) (s16 p 0x11) (s16 p 0x13)) ∧
        (u8 p 2 = 1 →
          ∃ align, alignCode align = u8 p 0x22 ∧
            t.body = .price ⟨u8 p 0x1E, colorAt p 0x1F, align, byteAt p 0x23, u16 p 0x24, u8 p 0x26⟩) ∧
        (u8 p 2 = 2 → t.body = .panel))

/-- ITEM_DROP (R9), TILE_DROP (R19) and PAGE_WIPE (R20), taken with no take pending: their range test, NOT_FOUND where the
staged bank holds no such record, and the removal of that record, or of that page's tiles, and of nothing else. -/
def Obligations.DropsAndWipesRemoveExactlyWhatTheyName : Prop :=
  ∀ (s : State) (h : PacketHead) (p : List Byte), s.tables.pendingTake = none →
    (TakenAtOnce s h 0x11 → p.length = 2 →
      ∃ items,
        exec (.itemDrop h p) s =
          .next (closing s ⟨h, 0x11, p⟩
            (if 511 < u16 p 0 then ⟨.outOfRange, [], s.begin⟩
             else if tget s.tables.staged.items (u16 p 0) = none then ⟨.notFound, [], s.begin⟩
             else ⟨.ok, [], staging s.begin { s.tables.staged with items := items }⟩)) ∧
        ∀ id, tget items id = if id = u16 p 0 then none else tget s.tables.staged.items id) ∧
    (TakenAtOnce s h 0x15 → p.length = 2 →
      ∃ tiles,
        exec (.tileDrop h p) s =
          .next (closing s ⟨h, 0x15, p⟩
            (if 7 < u8 p 0 ∨ 47 < u8 p 1 then ⟨.outOfRange, [], s.begin⟩
             else if tget s.tables.staged.tiles (u8 p 0 * 48 + u8 p 1) = none then ⟨.notFound, [], s.begin⟩
             else ⟨.ok, [], staging s.begin { s.tables.staged with tiles := tiles }⟩)) ∧
        ∀ key, tget tiles key = if key = u8 p 0 * 48 + u8 p 1 then none else tget s.tables.staged.tiles key) ∧
    (TakenAtOnce s h 0x16 → p.length = 1 →
      ∃ tiles,
        exec (.pageWipe h p) s =
          .next (closing s ⟨h, 0x16, p⟩
            (if 7 < u8 p 0 then ⟨.outOfRange, [], s.begin⟩
             else ⟨.ok, [], staging s.begin { s.tables.staged with tiles := tiles }⟩)) ∧
        ∀ page id, id < 48 →
          tget tiles (page * 48 + id) = if page = u8 p 0 then none else tget s.tables.staged.tiles (page * 48 + id))

/-- COLUMN_PUT (R10), FORMAT_PUT (R12) and SCHED_PUT (R22), taken with no take pending: refused OUT_OF_RANGE exactly where
their rules list it, and otherwise the one part of the staged bank that they name is replaced by the payload's. -/
def Obligations.ColumnFormatAndScheduleEditsReplaceOnePart : Prop :=
  ∀ (s : State) (h : PacketHead) (p : List Byte), s.tables.pendingTake = none →
    (TakenAtOnce s h 0x12 → p.length = 3 →
      exec (.columnPut h p) s =
        .next (closing s ⟨h, 0x12, p⟩
          (if 3 < u8 p 0 ∨ u16 p 1 < 500 ∨ 2000 < u16 p 1 then ⟨.outOfRange, [], s.begin⟩
           else ⟨.ok, [], staging s.begin
            { s.tables.staged with factors := columnSet s.tables.staged.factors (u8 p 0) (u16 p 1) }⟩))) ∧
    (TakenAtOnce s h 0x13 → p.length = 9 →
      (FormatRefused p → exec (.formatPut h p) s = .next (closing s ⟨h, 0x13, p⟩ ⟨.outOfRange, [], s.begin⟩)) ∧
      (¬ FormatRefused p →
        ∃ f, FormatInRange f ∧ symbolCode f.symbol = u8 p 0 ∧ minorCode f.minor = u8 p 1 ∧
          (f.shortForm = true ↔ u8 p 2 = 1) ∧ roundingCode f.rounding = u8 p 3 ∧ f.step = u8 p 4 ∧ f.ending = u8 p 5 ∧
          (f.taxInclusive = true ↔ u8 p 6 = 1) ∧ f.taxRate = u16 p 7 ∧
          exec (.formatPut h p) s =
            .next (closing s ⟨h, 0x13, p⟩ ⟨.ok, [], staging s.begin { s.tables.staged with format := f }⟩))) ∧
    (TakenAtOnce s h 0x17 → 0 < p.length → p.length = 1 + 5 * u8 p 0 →
      (ScheduleRefused p → exec (.schedPut h p) s = .next (closing s ⟨h, 0x17, p⟩ ⟨.outOfRange, [], s.begin⟩)) ∧
      (¬ ScheduleRefused p →
        ∃ l, ScheduleInRange l ∧ l.length = u8 p 0 ∧
          (∀ n, n < u8 p 0 →
            l[n]? = some ⟨u16 p (1 + 5 * n), u8 p (3 + 5 * n), u8 p (4 + 5 * n), byteAt p (5 + 5 * n)⟩) ∧
          exec (.schedPut h p) s =
            .next (closing s ⟨h, 0x17, p⟩ ⟨.ok, [], staging s.begin { s.tables.staged with schedule := l }⟩)))

/-! ### STAGE_COPY, AUDIT, TAKE and TAKE_CANCEL -/

/-- STAGE_COPY (R28): BAD_LENGTH, TAKE_PENDING, or the live bank's whole content becomes the staged content, CLEAN, with a
running audit aborted as COPIED. AUDIT (R30): BAD_LENGTH, TAKE_PENDING, BUSY, or AUDITING with the checks enabled in the
mask of the frame in progress, the lowest of them next, or none. Nothing else changes. -/
def Obligations.StageCopyAndAuditSetTheStagedState : Prop :=
  ∀ (s : State) (f : Frame) (h : PacketHead) (p : List Byte), s.frame = some f →
    (TakenAtOnce s h 0x18 →
      exec (.stageCopy h p) s =
        .next (closing s ⟨h, 0x18, p⟩
          (if p ≠ [] then ⟨.badLength, [], s.begin⟩
           else if s.tables.pendingTake.isSome then ⟨.takePending, [], s.begin⟩
           else ⟨.ok, [],
            { s.begin with
              tables := { s.tables with staged := s.tables.live, stagedState := .clean }
              audit := if s.tables.stagedState = .auditing then ⟨none, .copied⟩ else s.audit }⟩))) ∧
    (TakenAtOnce s h 0x19 →
      exec (.audit h p) s =
        .next (closing s ⟨h, 0x19, p⟩
          (if p ≠ [] then ⟨.badLength, [], s.begin⟩
           else if s.tables.pendingTake.isSome then ⟨.takePending, [], s.begin⟩
           else if s.tables.stagedState = .auditing then ⟨.busy, [], s.begin⟩
           else ⟨.ok, [],
            { s.begin with
              tables := { s.tables with stagedState := .auditing }
              audit :=
                { s.audit with
                  progress := some
                    { enabled := f.snap.settings.mask
                      next :=
                        if f.snap.settings.mask.c1 then some 1 else if f.snap.settings.mask.c2 then some 2
                        else if f.snap.settings.mask.c3 then some 3 else if f.snap.settings.mask.c4 then some 4
                        else if f.snap.settings.mask.c5 then some 5 else none
                      running := false } } }⟩)))

/-- TAKE (R40): its refusals in their order, and otherwise a take pending with the target, which the reply gives; under LAX a
running audit is aborted as TAKEN and the staged state becomes DIRTY (R39). Nothing else changes.
TAKE_CANCEL (R46): BAD_LENGTH, WRONG_STATE where no take is pending, or the pending take is cleared; the staged content, the
staged state, the audit result and everything else are left, and no TAKE_CANCELLED is raised. -/
def Obligations.TakeAndTakeCancelSetAndClearThePendingTake : Prop :=
  (∀ (s : State) (f : Frame) (h : PacketHead) (p : List Byte), TakenAtOnce s h 0x1A → s.frame = some f →
    let number := s.timing.number
    let target : FrameNo := if u8 p 0 = 0 then BitVec.ofNat 16 (u16 p 1) else number + 1
    let distance := (target.toNat + 65536 - number.toNat) % 65536
    exec (.take h p) s =
      .next (closing s ⟨h, 0x1A, p⟩
        (if p.length ≠ 3 then ⟨.badLength, [], s.begin⟩
         else if 1 < u8 p 0 then ⟨.outOfRange, [], s.begin⟩
         else if s.timing.link = .search ∨ s.timing.link = .standalone then ⟨.wrongState, [], s.begin⟩
         else if s.tables.pendingTake.isSome then ⟨.takePending, [], s.begin⟩
         else if f.snap.settings.policy = .strict ∧ s.tables.stagedState ≠ .passed then ⟨.notAudited, [], s.begin⟩
         else if distance = 0 ∨ 4096 < distance then ⟨.takeWindow, [], s.begin⟩
         else ⟨.ok, [BitVec.ofNat 8 (target.toNat / 256), BitVec.ofNat 8 target.toNat],
          { s.begin with
            tables :=
              { s.tables with
                pendingTake := some target
                stagedState := if s.tables.stagedState = .auditing then .dirty else s.tables.stagedState }
            audit := if s.tables.stagedState = .auditing then ⟨none, .taken⟩ else s.audit }⟩))) ∧
  ∀ (s : State) (h : PacketHead) (p : List Byte), TakenAtOnce s h 0x1B →
    exec (.takeCancel h p) s =
      .next (closing s ⟨h, 0x1B, p⟩
        (if p ≠ [] then ⟨.badLength, [], s.begin⟩
         else if s.tables.pendingTake = none then ⟨.wrongState, [], s.begin⟩
         else ⟨.ok, [], { s.begin with tables := { s.tables with pendingTake := none } }⟩))

/-! ### The immediate class -/

/-- STOCK (R24): BAD_LENGTH, OUT_OF_RANGE for the whole packet, or the pairs applied in list order: each id ends at the
state of its last pair, the others keep theirs, and nothing but the stock map changes. The reply holds the result and no
data, as R24 says (log entry 25 has what R63 says of it). -/
def Obligations.StockAppliesItsPairsInOrder : Prop :=
  ∀ (s : State) (h : PacketHead) (p : List Byte), TakenAtOnce s h 0x20 → s.tables.stock.length = 512 →
    ∃ stock,
      exec (.stock h p) s =
        .next (closing s ⟨h, 0x20, p⟩
          (if p = [] ∨ p.length ≠ 1 + 3 * u8 p 0 then ⟨.badLength, [], s.begin⟩
           else if u8 p 0 = 0 ∨ 48 < u8 p 0 ∨ ∃ n, n < u8 p 0 ∧ (511 < u16 p (1 + 3 * n) ∨ 1 < u8 p (3 + 3 * n)) then
            ⟨.outOfRange, [], s.begin⟩
           else ⟨.ok, [], { s.begin with tables := { s.tables with stock := stock } }⟩)) ∧
      stock.length = 512 ∧
      ∀ id, id < 512 →
        (∀ n, n < u8 p 0 → u16 p (1 + 3 * n) = id → (∀ m, n < m → m < u8 p 0 → u16 p (1 + 3 * m) ≠ id) →
          u8 p (3 + 3 * n) ≤ 1 → stock[id]? = some (if u8 p (3 + 3 * n) = 0 then .available else .soldOut)) ∧
        ((∀ n, n < u8 p 0 → u16 p (1 + 3 * n) ≠ id) → stock[id]? = s.tables.stock[id]?)

/-- FORCE (R57), HIGHLIGHT (R133) and BACKLIGHT (R164): their refusals, and the override, the slot or the backlight override
as the mode says; nothing else changes. BACKLIGHT's reply gives the level, the panel state, the resolved target of the frame
in progress and the override as now held; that its target byte is 00 where none is held is the model's choice (log entry
28). -/
def Obligations.OverrideCommandsHoldOrRelease : Prop :=
  ∀ (s : State) (f : Frame) (h : PacketHead) (p : List Byte), s.frame = some f →
    (TakenAtOnce s h 0x21 →
      exec (.force h p) s =
        .next (closing s ⟨h, 0x21, p⟩
          (if p.length ≠ 3 then ⟨.badLength, [], s.begin⟩
           else if 2 < u8 p 0 ∨ (u8 p 0 ≠ 2 ∧ (7 < u8 p 1 ∨ 3 < u8 p 2)) then ⟨.outOfRange, [], s.begin⟩
           else ⟨.ok, [],
            { s.begin with
              context :=
                { s.context with
                  override :=
                    if u8 p 0 = 2 then none
                    else some
                      ⟨if u8 p 0 = 0 then OverrideMode.untilRelease else OverrideMode.untilBoundary, u8 p 1,
                        u8 p 2⟩ } }⟩))) ∧
    (TakenAtOnce s h 0x22 →
      exec (.highlight h p) s =
        .next (closing s ⟨h, 0x22, p⟩
          (if p.length ≠ 9 then ⟨.badLength, [], s.begin⟩
           else if 1 < u8 p 0 ∨ 1 < u8 p 1 ∨
              (u8 p 1 = 0 ∧ (47 < u8 p 2 ∨ 31 < u8 p 3 ∨ u8 p 4 = 0 ∨ 16 < u8 p 4)) then ⟨.outOfRange, [], s.begin⟩
           else
            let content : Option Highlight :=
              if u8 p 1 = 0 then some ⟨u8 p 2, u8 p 3, u8 p 4, colorAt p 5, byteAt p 8⟩ else none
            ⟨.ok, [],
              if u8 p 0 = 0 then { s.begin with context := { s.context with high0 := content } }
              else { s.begin with context := { s.context with high1 := content } }⟩))) ∧
    (TakenAtOnce s h 0x23 →
      exec (.backlight h p) s =
        .next (closing s ⟨h, 0x23, p⟩
          (if p.length ≠ 2 then ⟨.badLength, [], s.begin⟩
           else if 1 < u8 p 0 then ⟨.outOfRange, [], s.begin⟩
           else
            let override : Option Byte := if u8 p 0 = 0 then some (byteAt p 1) else none
            ⟨.ok,
              [s.output.level, if s.output.panel = .present then 1 else 0, f.snap.target,
                if u8 p 0 = 0 then 1 else 0, if u8 p 0 = 0 then byteAt p 1 else 0],
              { s.begin with output := { s.output with override := override } }⟩)))

/-- CONFIG_PUT (R185) and GAMMA_PUT (R159): refused whole exactly where their rules list it; otherwise the settings record is
replaced whole, or the named entries of the named table are written and no other entry; the frame in progress keeps its
snapshot. -/
def Obligations.ConfigAndGammaWriteWholeOrNothing : Prop :=
  ∀ (s : State) (h : PacketHead) (p : List Byte),
    (TakenAtOnce s h 0x24 →
      (p.length ≠ 22 → exec (.configPut h p) s = .next (closing s ⟨h, 0x24, p⟩ ⟨.badLength, [], s.begin⟩)) ∧
      (p.length = 22 → SettingsRefused p →
        exec (.configPut h p) s = .next (closing s ⟨h, 0x24, p⟩ ⟨.outOfRange, [], s.begin⟩)) ∧
      (p.length = 22 → ¬ SettingsRefused p →
        ∃ n, SettingsInRange n ∧ encodeSettings n = p ∧
          exec (.configPut h p) s =
            .next (closing s ⟨h, 0x24, p⟩ ⟨.ok, [], { s.begin with context := { s.context with settings := n } }⟩))) ∧
    (TakenAtOnce s h 0x25 → StoresSized s →
      (p.length < 4 ∨ p.length ≠ 4 + 2 * u8 p 3 →
        exec (.gammaPut h p) s = .next (closing s ⟨h, 0x25, p⟩ ⟨.badLength, [], s.begin⟩)) ∧
      (4 ≤ p.length → p.length = 4 + 2 * u8 p 3 → GammaRefused p →
        exec (.gammaPut h p) s = .next (closing s ⟨h, 0x25, p⟩ ⟨.outOfRange, [], s.begin⟩)) ∧
      (4 ≤ p.length → p.length = 4 + 2 * u8 p 3 → ¬ GammaRefused p →
        ∃ g : GammaTables,
          exec (.gammaPut h p) s =
            .next (closing s ⟨h, 0x25, p⟩ ⟨.ok, [], { s.begin with output := { s.output with gamma := g } }⟩) ∧
          ∀ (i : Nat) (c : Nat) (old new : List PanelCode),
            (c = 0 ∧ old = s.output.gamma.red ∧ new = g.red) ∨ (c = 1 ∧ old = s.output.gamma.green ∧ new = g.green) ∨
              (c = 2 ∧ old = s.output.gamma.blue ∧ new = g.blue) →
            i < 256 →
            new[i]? =
              if c = u8 p 0 ∧ u16 p 1 ≤ i ∧ i < u16 p 1 + u8 p 3 then
                some (BitVec.ofNat 10 (u16 p (4 + 2 * (i - u16 p 1))))
              else old[i]?))

/-! ### The memory class -/

/-- PHOTO_OPEN (R93): its refusals in their order; otherwise an OPEN record with the blocks at the head of the free list,
and the free count in the reply. No pixel changes.
PHOTO_DROP (R94): BAD_LENGTH, NOT_FOUND, IN_USE; otherwise the record goes, its blocks join the tail of the free list in
their order, every strip of the photo ends DROPPED, and CAPTURE_FAILED is raised if there was one. -/
def Obligations.PhotoOpenAndDropMoveBlocks : Prop :=
  (∀ (s : State) (h : PacketHead) (p : List Byte), TakenAtOnce s h 0x30 →
    let blocks := ((u16 p 1 + 31) / 32) * ((u16 p 3 + 31) / 32)
    exec (.photoOpen h p) s =
      .next (closing s ⟨h, 0x30, p⟩
        (if p.length ≠ 9 then ⟨.badLength, [], s.begin⟩
         else if (tget s.photos.directory (u8 p 0)).isSome then ⟨.inUse, [], s.begin⟩
         else if u16 p 1 = 0 ∨ 512 < u16 p 1 ∨ u16 p 3 = 0 ∨ 512 < u16 p 3 ∨ 1 < u8 p 5 then ⟨.outOfRange, [], s.begin⟩
         else if s.photos.free.length < blocks then ⟨.noSpace, [], s.begin⟩
         else
          ⟨.ok,
            [BitVec.ofNat 8 ((s.photos.free.length - blocks) / 256), BitVec.ofNat 8 (s.photos.free.length - blocks)],
            { s.begin with
              photos :=
                { s.photos with
                  directory :=
                    tput s.photos.directory (u8 p 0)
                      { state := .opened, w := u16 p 1, h := u16 p 3
                        key := if u8 p 5 = 1 then some (colorAt p 6) else none
                        blocks := s.photos.free.take blocks, rowsFilled := 0, last := .none, skipped := 0 }
                  free := s.photos.free.drop blocks } }⟩))) ∧
  ∀ (s : State) (h : PacketHead) (p : List Byte), TakenAtOnce s h 0x31 →
    (p.length ≠ 1 → exec (.photoDrop h p) s = .next (closing s ⟨h, 0x31, p⟩ ⟨.badLength, [], s.begin⟩)) ∧
    (p.length = 1 → tget s.photos.directory (u8 p 0) = none →
      exec (.photoDrop h p) s = .next (closing s ⟨h, 0x31, p⟩ ⟨.notFound, [], s.begin⟩)) ∧
    ∀ r, p.length = 1 → tget s.photos.directory (u8 p 0) = some r →
      (0 < s.photos.refCounts.getD (u8 p 0) 0 →
        exec (.photoDrop h p) s = .next (closing s ⟨h, 0x31, p⟩ ⟨.inUse, [], s.begin⟩)) ∧
      (s.photos.refCounts.getD (u8 p 0) 0 = 0 →
        ∃ (directory : Table PhotoRec) (engine : CaptureEngine) (events : EventSet),
          let count := s.photos.free.length + r.blocks.length
          exec (.photoDrop h p) s =
            .next (closing s ⟨h, 0x31, p⟩
              ⟨.ok, [BitVec.ofNat 8 (count / 256), BitVec.ofNat 8 count],
                { s.begin with
                  photos := { s.photos with directory := directory, free := s.photos.free ++ r.blocks }
                  capture := engine
                  lane := { s.lane with events := events } }⟩) ∧
          (∀ id, tget directory id = if id = u8 p 0 then none else tget s.photos.directory id) ∧
          engine.queue = (s.capture.queue.filter fun q => !isStripOf (u8 p 0) q) ∧
          engine.inFlight = (s.capture.inFlight.filter fun q => !isStripOf (u8 p 0) q.request) ∧
          events =
            if (allRequests s.capture).any (isStripOf (u8 p 0)) then { s.lane.events with captureFailed := true }
            else s.lane.events)

/-- CAPTURE (R100, R101) and GLYPH_LOAD (R98): their refusals in their order; otherwise a request at the tail of the capture
queue, and for a glyph load a LOADING slot; nothing else changes.
CAPTURE_FLUSH (R109): BAD_LENGTH, or the queue emptied and the engine idle, every photo with a strip among the ended requests
FLUSHED with its strips beyond the first as skipped count, every slot with a glyph load among them EMPTY, CAPTURE_FAILED if
one request was ended, and their number in the reply. -/
def Obligations.CaptureCommandsQueueOrEndRequests : Prop :=
  (∀ (s : State) (h : PacketHead) (p : List Byte),
    (TakenAtOnce s h 0x32 →
      (p.length ≠ 9 → exec (.capture h p) s = .next (closing s ⟨h, 0x32, p⟩ ⟨.badLength, [], s.begin⟩)) ∧
      (p.length = 9 → tget s.photos.directory (u8 p 0) = none →
        exec (.capture h p) s = .next (closing s ⟨h, 0x32, p⟩ ⟨.notFound, [], s.begin⟩)) ∧
      ∀ r, p.length = 9 → tget s.photos.directory (u8 p 0) = some r →
        exec (.capture h p) s =
          .next (closing s ⟨h, 0x32, p⟩
            (if r.state = .ready then ⟨.wrongState, [], s.begin⟩
             else if u16 p 7 = 0 ∨ 512 < u16 p 7 ∨ r.h < u16 p 5 + u16 p 7 ∨ 8191 < u16 p 1 ∨ 4095 < u16 p 3 ∨
                8192 < u16 p 1 + r.w ∨ 4096 < u16 p 3 + u16 p 7 then ⟨.outOfRange, [], s.begin⟩
             else if u16 p 5 ≠
                r.rowsFilled + (((allRequests s.capture).filter (isStripOf (u8 p 0))).map stripRows).sum then
              ⟨.rowOrder, [], s.begin⟩
             else if 4 ≤ s.capture.queue.length then ⟨.queueFull, [], s.begin⟩
             else ⟨.ok, [],
              { s.begin with
                capture :=
                  { s.capture with
                    queue := s.capture.queue ++ [.strip (u8 p 0) (u16 p 1) (u16 p 3) (u16 p 5) (u16 p 7)] } }⟩))) ∧
    (TakenAtOnce s h 0x33 →
      let slot := u8 p 0 * 12 + u8 p 1
      exec (.glyphLoad h p) s =
        .next (closing s ⟨h, 0x33, p⟩
          (if p.length ≠ 8 then ⟨.badLength, [], s.begin⟩
           else if 3 < u8 p 0 ∨ 11 < u8 p 1 ∨ u8 p 6 = 0 ∨ 64 < u8 p 6 ∨ u8 p 7 = 0 ∨ 96 < u8 p 7 ∨ 8191 < u16 p 2 ∨
              4095 < u16 p 4 ∨ 8192 < u16 p 2 + u8 p 6 ∨ 4096 < u16 p 4 + u8 p 7 then ⟨.outOfRange, [], s.begin⟩
           else if 0 < columnGet s.glyphs.useCounts (u8 p 0) then ⟨.inUse, [], s.begin⟩
           else if slotLoading (s.glyphs.slots.getD slot .empty) = true then ⟨.wrongState, [], s.begin⟩
           else if 4 ≤ s.capture.queue.length then ⟨.queueFull, [], s.begin⟩
           else ⟨.ok, [],
            { s.begin with
              glyphs := { s.glyphs with slots := s.glyphs.slots.set slot (.loading []) }
              capture :=
                { s.capture with
                  queue :=
                    s.capture.queue ++ [.glyph (u8 p 0) (u8 p 1) (u16 p 2) (u16 p 4) (u8 p 6) (u8 p 7)] } }⟩)))) ∧
  ∀ (s : State) (h : PacketHead) (p : List Byte), TakenAtOnce s h 0x34 → StoresSized s →
    (p ≠ [] → exec (.captureFlush h p) s = .next (closing s ⟨h, 0x34, p⟩ ⟨.badLength, [], s.begin⟩)) ∧
    (p = [] →
      ∃ (directory : Table PhotoRec) (slots : List GlyphSlot) (events : EventSet),
        exec (.captureFlush h p) s =
          .next (closing s ⟨h, 0x34, p⟩
            ⟨.ok, [BitVec.ofNat 8 (allRequests s.capture).length],
              { s.begin with
                photos := { s.photos with directory := directory }
                glyphs := { s.glyphs with slots := slots }
                capture := ⟨[], none⟩
                lane := { s.lane with events := events } }⟩) ∧
        (∀ id,
          tget directory id =
            (tget s.photos.directory id).map fun r =>
              if (allRequests s.capture).any (isStripOf id) then
                { r with
                  last := .flushed, skipped := ((allRequests s.capture).filter (isStripOf id)).length - 1 }
              else r) ∧
        (∀ place, place < 48 →
          slots[place]? =
            if (allRequests s.capture).any (isLoadOf place) then some .empty else s.glyphs.slots[place]?) ∧
        events =
          if allRequests s.capture = [] then s.lane.events else { s.lane.events with captureFailed := true })

/-! ### The node class -/

/-- Every query that is not refused answers OK with data of its fixed length and changes nothing (R186, section 11.8), whether
or not the thing it names has a record; a payload of another length is refused BAD_LENGTH, and an argument its kind uses that
lies outside its range OUT_OF_RANGE. That item records stand in their ranges is the invariant StepKeepsRecordsInRange. -/
def Obligations.QueriesAnswerAndChangeNothing : Prop :=
  ∀ (s : State) (i : Instr) (h : PacketHead) (p : List Byte) (size : Nat),
    TakenAtOnce s h 0x40 →
    (∀ e ∈ s.tables.live.items ++ s.tables.staged.items, ItemInRange e.1 e.2) →
    ((i = .queryNode h p ∧ u8 p 0 = 0 ∧ size = 39) ∨ (i = .queryItem h p ∧ u8 p 0 = 1 ∧ size = 85) ∨
      (i = .queryTile h p ∧ u8 p 0 = 2 ∧ size = 85) ∨ (i = .queryPhoto h p ∧ u8 p 0 = 3 ∧ size = 17) ∨
      (i = .queryStaging h p ∧ u8 p 0 = 4 ∧ size = 18) ∨ (i = .querySchedule h p ∧ u8 p 0 = 5 ∧ size = 16) ∨
      (i = .queryGlyph h p ∧ u8 p 0 = 6 ∧ size = 37)) →
    (p.length ≠ 4 → exec i s = .next (closing s ⟨h, 0x40, p⟩ ⟨.badLength, [], s.begin⟩)) ∧
    (p.length = 4 →
      (u8 p 0 = 1 ∧ 511 < u16 p 1) ∨ (u8 p 0 = 2 ∧ (7 < u16 p 1 ∨ 47 < u8 p 3)) ∨ (u8 p 0 = 3 ∧ 255 < u16 p 1) ∨
        (u8 p 0 = 6 ∧ 3 < u16 p 1) →
      exec i s = .next (closing s ⟨h, 0x40, p⟩ ⟨.outOfRange, [], s.begin⟩)) ∧
    (p.length = 4 →
      ¬ ((u8 p 0 = 1 ∧ 511 < u16 p 1) ∨ (u8 p 0 = 2 ∧ (7 < u16 p 1 ∨ 47 < u8 p 3)) ∨ (u8 p 0 = 3 ∧ 255 < u16 p 1) ∨
        (u8 p 0 = 6 ∧ 3 < u16 p 1)) →
      ∃ data, data.length = size ∧ exec i s = .next (closing s ⟨h, 0x40, p⟩ ⟨.ok, data, s.begin⟩))

/-- What QUERY NODE reports (R187, section 11.8) and what QUERY STAGING reports (R189, section 11.8), field by field: the
staged state; the last audit result with each outcome and object kind, a field its outcome or kind does not hold as zero
bytes; the next check and the enabled checks of an audit, whether or not that check runs yet, zero where no audit runs; the
pending take; the policy and the mask in effect. That the mask byte has check 1 in bit 0 is the model's reading (log entry
22); of bits 7–5 nothing is said (log entry 26). -/
def Obligations.QueryNodeAndStagingReportTheState : Prop :=
  ∀ (s : State) (f : Frame) (h : PacketHead) (a b c : Byte), TakenAtOnce s h 0x40 → s.frame = some f →
    TimingInRange s.timing → QueuesBounded s →
    (∃ d,
      exec (.queryNode h [0, a, b, c]) s = .next (closing s ⟨h, 0x40, [0, a, b, c]⟩ ⟨.ok, d, s.begin⟩) ∧
      u8 d 0 = s.lane.address.toNat ∧ (u8 d 1 = 1 ↔ s.lane.conflict = true) ∧ u8 d 2 = linkCode s.timing.link ∧
      u8 d 3 = s.timing.good ∧ u8 d 4 = s.timing.miss ∧ u16 d 5 = s.timing.number.toNat ∧ u8 d 7 = s.timing.hour ∧
      u8 d 8 = s.timing.minute ∧ u8 d 9 = s.timing.second ∧ (u8 d 10 = 1 ↔ s.timing.timeValid = true) ∧
      u8 d 11 = 0 ∧ u8 d 12 = s.lane.queue.length ∧ u8 d 13 = s.capture.queue.length ∧
      (u8 d 14 = 1 ↔ s.capture.inFlight.isSome = true) ∧ (u8 d 15 = 1 ↔ s.output.panel = .present) ∧
      byteAt d 16 = s.output.level ∧ d.drop 17 = encodeSettings s.context.settings) ∧
    (∃ d,
      exec (.queryStaging h [4, a, b, c]) s = .next (closing s ⟨h, 0x40, [4, a, b, c]⟩ ⟨.ok, d, s.begin⟩) ∧
      u8 d 0 = stagedCode s.tables.stagedState ∧
      (∀ target, s.tables.pendingTake = some target →
        u8 d 11 = 1 ∧ u16 d 12 = target.toNat ∧
        u16 d 14 = (target.toNat + 65536 - s.timing.number.toNat) % 65536) ∧
      (s.tables.pendingTake = none → u8 d 11 = 0 ∧ u16 d 12 = 0 ∧ u16 d 14 = 0) ∧
      u8 d 16 = policyCode f.snap.settings.policy ∧
      (∀ j (c : Bool),
        (j, c) ∈ [(0, f.snap.settings.mask.c1), (1, f.snap.settings.mask.c2), (2, f.snap.settings.mask.c3),
          (3, f.snap.settings.mask.c4), (4, f.snap.settings.mask.c5)] → (byteAt d 17).getLsbD j = c) ∧
      (∀ m next running, s.audit.progress = some ⟨m, next, running⟩ →
        (next.getD 0 < 256 → u8 d 9 = next.getD 0) ∧
        ∀ j (c : Bool), (j, c) ∈ [(0, m.c1), (1, m.c2), (2, m.c3), (3, m.c4), (4, m.c5)] → (byteAt d 10).getLsbD j = c) ∧
      (s.audit.progress = none → u8 d 9 = 0 ∧ u8 d 10 = 0) ∧
      (∀ result code,
        (result, code) ∈ [(AuditResult.none, 0), (.passed, 1), (.edited, 3), (.copied, 4), (.taken, 5), (.reset, 6)] →
        s.audit.result = result → u8 d 1 = code ∧ ∀ j, 2 ≤ j → j ≤ 8 → u8 d j = 0) ∧
      (∀ check failure, s.audit.result = .failed check failure → check < 256 →
        let object (kind page id detail : Nat) : Prop :=
          u8 d 3 = kind ∧ u8 d 4 = page ∧ u16 d 5 = id ∧ u16 d 7 = detail
        u8 d 1 = 2 ∧ u8 d 2 = check ∧
        (failure = .nothing → object 0 0 0 0) ∧
        (∀ page id detail, page < 8 → id < 48 → detail < 2048 → failure = .tile page id detail → object 1 page id detail) ∧
        (∀ id detail, id < 512 → detail < 512 → failure = .item id detail → object 2 0 id detail) ∧
        (∀ id, id < 256 → failure = .photo id → object 3 0 id 0) ∧
        (∀ page detail, page < 8 → detail < 2048 → failure = .page page detail → object 4 page 0 detail)))

/-- What QUERY ITEM (R64, R86, R188) and QUERY TILE (R139) report, field by field (section 11.8): the records of both banks as
ItemAndTileRecordsReadBack reads them back, zero bytes where a bank has none; the stock map entry as it stands; the frame's
status, availability, value and overflow of the item; and the completed frame's number, page and flags of the tile, clear where
no frame has completed and for a tile that was not on its page. Of bits 7–5 of the flags byte nothing is said (log entry
26). That records stand in their ranges is the invariant StepKeepsRecordsInRange. -/
def Obligations.QueryItemAndTileReportTheirRecords : Prop :=
  ∀ (s : State) (f : Frame) (h : PacketHead) (p : List Byte), TakenAtOnce s h 0x40 → s.frame = some f → RecordsInRange s →
    p.length = 4 →
    let presence (d : List Byte) (at_ size : Nat) (record : Option (List Byte)) : Prop :=
      (record = none → ∀ j, at_ ≤ j → j ≤ at_ + size → byteAt d j = 0) ∧
      ∀ r, record = some r → u8 d at_ = 1 ∧ (d.drop (at_ + 1)).take size = r
    (u8 p 0 = 1 → u16 p 1 ≤ 511 →
      ∃ d, exec (.queryItem h p) s = .next (closing s ⟨h, 0x40, p⟩ ⟨.ok, d, s.begin⟩) ∧
        presence d 0 37 ((tget s.tables.live.items (u16 p 1)).map (encodeItem (u16 p 1))) ∧
        presence d 38 37 ((tget s.tables.staged.items (u16 p 1)).map (encodeItem (u16 p 1))) ∧
        (∀ entry, s.tables.stock[u16 p 1]? = some entry → u8 d 76 = if entry = .available then 0 else 1) ∧
        (tget f.snap.status (u16 p 1) = none → ∀ j, 77 ≤ j → j ≤ 84 → byteAt d j = 0) ∧
        ∀ status, tget f.snap.status (u16 p 1) = some status →
          u8 d 77 = 1 ∧ u8 d 78 = (if status.offered then 1 else 0) ∧ u8 d 79 = (if status.available then 1 else 0) ∧
          (∀ value glyphs, value < 4294967296 → tget f.snap.cache (u16 p 1) = some (.priced value glyphs) →
            u16 d 80 * 65536 + u16 d 82 = value ∧ u8 d 84 = 0) ∧
          (∀ value, value < 4294967296 → tget f.snap.cache (u16 p 1) = some (.overflow value) →
            u16 d 80 * 65536 + u16 d 82 = value ∧ u8 d 84 = 1) ∧
          (tget f.snap.cache (u16 p 1) = none ∨ tget f.snap.cache (u16 p 1) = some .notOffered →
            ∀ j, 80 ≤ j → j ≤ 84 → byteAt d j = 0)) ∧
    (u8 p 0 = 2 → u16 p 1 ≤ 7 → u8 p 3 ≤ 47 →
      ∃ d, exec (.queryTile h p) s = .next (closing s ⟨h, 0x40, p⟩ ⟨.ok, d, s.begin⟩) ∧
        presence d 0 39
          ((tget s.tables.live.tiles (u16 p 1 * 48 + u8 p 3)).map (encodeTile (u16 p 1) (u8 p 3))) ∧
        presence d 40 39
          ((tget s.tables.staged.tiles (u16 p 1 * 48 + u8 p 3)).map (encodeTile (u16 p 1) (u8 p 3))) ∧
        (s.kept = none → ∀ j, 80 ≤ j → j ≤ 83 → byteAt d j = 0) ∧
        (∀ k, s.kept = some k → k.page < 8 → u8 d 80 = 1 ∧ u16 d 81 = k.number.toNat ∧ u8 d 83 = k.page) ∧
        (s.kept = none ∨ (∃ k, s.kept = some k ∧ (k.page ≠ u16 p 1 ∨ tget k.flags (u8 p 3) = none)) →
          ∀ j, j < 5 → (byteAt d 84).getLsbD j = false) ∧
        ∀ k flags, s.kept = some k → k.page = u16 p 1 → tget k.flags (u8 p 3) = some flags →
          (byteAt d 84).getLsbD 4 = flags.missingRef ∧ (byteAt d 84).getLsbD 3 = flags.notReady ∧
          (byteAt d 84).getLsbD 2 = flags.overflow ∧ (byteAt d 84).getLsbD 1 = flags.missingGlyph ∧
          (byteAt d 84).getLsbD 0 = flags.budgetShort)

/-- What QUERY PHOTO and QUERY GLYPH (R111) and QUERY SCHEDULE (R64) report, field by field (section 11.8): the directory
record as it stands, zero bytes where there is none, with the reference count and the free count; the snapshot's minute,
time-valid flag, active entry, page, column and target with the override as now held, FF where it is released; the font's
use count and its twelve slots. A use count above 255 has no stated byte (a free value, log entry 8). -/
def Obligations.QueryPhotoScheduleAndGlyphReportTheState : Prop :=
  ∀ (s : State) (f : Frame) (h : PacketHead) (p : List Byte), TakenAtOnce s h 0x40 → s.frame = some f → p.length = 4 →
    let zero (d : List Byte) (first last : Nat) : Prop := ∀ j, first ≤ j → j ≤ last → byteAt d j = 0
    (u8 p 0 = 3 → u16 p 1 ≤ 255 →
      ∃ d, exec (.queryPhoto h p) s = .next (closing s ⟨h, 0x40, p⟩ ⟨.ok, d, s.begin⟩) ∧
        (tget s.photos.directory (u16 p 1) = none → zero d 0 12) ∧
        (∀ r, tget s.photos.directory (u16 p 1) = some r →
          u8 d 0 = (if r.state = .opened then 1 else 2) ∧ (r.w ≤ 512 → u16 d 1 = r.w) ∧ (r.h ≤ 512 → u16 d 3 = r.h) ∧
          (r.key = none → zero d 5 8) ∧ (∀ c, r.key = some c → u8 d 5 = 1 ∧ colorAt d 6 = c) ∧
          (r.rowsFilled ≤ 512 → u16 d 9 = r.rowsFilled) ∧
          (∀ result code,
            (result, code) ∈ [(StripResult.none, 0), (.done, 1), (.overrun, 2), (.lost, 3), (.outOfCanvas, 4), (.flushed, 5)] →
            r.last = result → u8 d 11 = code) ∧
          (r.skipped ≤ 4 → u8 d 12 = r.skipped)) ∧
        (s.photos.refCounts.getD (u16 p 1) 0 < 65536 → u16 d 13 = s.photos.refCounts.getD (u16 p 1) 0) ∧
        (s.photos.free.length ≤ 6144 → u16 d 15 = s.photos.free.length)) ∧
    (u8 p 0 = 5 →
      ∃ d, exec (.querySchedule h p) s = .next (closing s ⟨h, 0x40, p⟩ ⟨.ok, d, s.begin⟩) ∧
        (f.snap.minute ≤ 1439 → u16 d 0 = f.snap.minute) ∧ u8 d 2 = (if f.snap.timeValid then 1 else 0) ∧
        (f.snap.active = none → zero d 3 9) ∧
        (∀ i e, f.snap.active = some (i, e) → i ≤ 15 → e.start ≤ 1439 → e.page ≤ 7 → e.column ≤ 3 →
          u8 d 3 = 1 ∧ u8 d 4 = i ∧ u16 d 5 = e.start ∧ u8 d 7 = e.page ∧ u8 d 8 = e.column ∧ byteAt d 9 = e.target) ∧
        (f.snap.page ≤ 7 → u8 d 10 = f.snap.page) ∧ (f.snap.column ≤ 3 → u8 d 11 = f.snap.column) ∧
        byteAt d 12 = f.snap.schedTarget ∧
        (s.context.override = none → u8 d 13 = 255 ∧ zero d 14 15) ∧
        ∀ o, s.context.override = some o → o.page ≤ 7 → o.column ≤ 3 →
          u8 d 13 = (if o.mode = .untilRelease then 0 else 1) ∧ u8 d 14 = o.page ∧ u8 d 15 = o.column) ∧
    (u8 p 0 = 6 → u16 p 1 ≤ 3 →
      ∃ d, exec (.queryGlyph h p) s = .next (closing s ⟨h, 0x40, p⟩ ⟨.ok, d, s.begin⟩) ∧
        (columnGet s.glyphs.useCounts (u16 p 1) ≤ 255 → u8 d 0 = columnGet s.glyphs.useCounts (u16 p 1)) ∧
        ∀ slot glyph, slot ≤ 11 → s.glyphs.slots[u16 p 1 * 12 + slot]? = some glyph →
          (glyph = .empty → zero d (1 + 3 * slot) (3 + 3 * slot)) ∧
          (∀ lines, glyph = .loading lines → u8 d (1 + 3 * slot) = 1 ∧ zero d (2 + 3 * slot) (3 + 3 * slot)) ∧
          ∀ width height bitmap, glyph = .loaded width height bitmap → width ≤ 64 → height ≤ 96 →
            u8 d (1 + 3 * slot) = 2 ∧ u8 d (2 + 3 * slot) = width ∧ u8 d (3 + 3 * slot) = height)

/-- NODE_RESET of scope TABLES (R191): both banks, the stock map, the staged state, the pending take, the audit, the
overrides and the highlight slots are reset, the counts expire at the next frame start (R45), TAKE_CANCELLED is raised if a
take was pending (R47), and everything else stands. Scope FULL (R192): the node is as after reset, with the straps sampled,
picture memory as it was, the audit result RESET if an audit ran, and TAKE_CANCELLED alone raised if a take was pending
(R29, R47, R87). RESTRAP (R183): at a node in conflict the straps are sampled and CONFLICT clears; elsewhere nothing
changes. A refused one changes nothing; none of them is answered.
An unassigned command code is answered UNKNOWN_COMMAND whatever its payload, with no data and no change (R172). -/
def Obligations.NodeResetsRestrapAndUnknownCommands : Prop :=
  (∀ (s : State) (h : PacketHead) (p : List Byte) (pins : Pins),
    (TakenAtOnce s h 0x41 →
      exec (.nodeResetTables h [0]) s =
        .next
          { s.begin with
            tables := ⟨emptyBank, emptyBank, .clean, List.replicate 512 .available, none, true⟩
            audit := ⟨none, if s.tables.stagedState = .auditing then .reset else .none⟩
            context := { s.context with override := none, high0 := none, high1 := none }
            output := { s.output with override := none }
            lane :=
              { s.lane with
                events :=
                  if s.tables.pendingTake.isSome then { s.lane.events with takeCancelled := true }
                  else s.lane.events } } ∧
      exec (.nodeResetFull h [1] pins) s =
        .next
          { State.reset with
            pins := pins
            lane :=
              { State.reset.lane with
                address := pins.straps
                events := { noEvents with takeCancelled := s.tables.pendingTake.isSome }
                upstreamHold := s.lane.upstreamHold }
            audit := ⟨none, if s.tables.stagedState = .auditing then .reset else .none⟩
            photos := { State.reset.photos with memory := s.photos.memory }
            pending := s.pending }) ∧
    (TakenAtOnce s h 0x41 → p.length ≠ 1 ∨ 1 < u8 p 0 →
      exec (.nodeResetTables h p) s = .next s.begin ∧
      exec (.nodeResetFull h p pins) s = .next { s.begin with pins := pins }) ∧
    (TakenAtOnce s h 0x42 →
      exec (.restrap h p pins) s =
        .next
          (if p = [] ∧ s.lane.conflict = true then
            { s.begin with pins := pins, lane := { s.lane with address := pins.straps, conflict := false } }
           else { s.begin with pins := pins }))) ∧
  ∀ (s : State) (h : PacketHead) (code : Byte) (p : List Byte), TakenAtOnce s h code → code ∉ assignedCodes →
    exec (.unknownCommand h code p) s = .next (closing s ⟨h, code, p⟩ ⟨.unknownCommand, [], s.begin⟩)

/-! ### The return lane -/

/-- UPSTREAM_TRANSFER_START: a transfer begins where a record is queued, none is in transfer and the neighbour does not hold
(R178). UPSTREAM_TRANSFER_CUT: the transfer ends and the record stays queued (R179). UPSTREAM_TRANSFER_DONE: the oldest record
leaves as accepted and its slot is granted: to nobody where nobody waits, to a lone claimant, and where both wait to the one
the grant memory names, which then names the other. A waiting packet that takes the slot is carried out, and the packets
behind it are then taken until one stalls (R174, R178, R180, R182). That before the first frame start the Command Processor
claims no slot is the model's reading (log entry 23). -/
def Obligations.TransfersBeginEndAndFreeTheirSlot : Prop :=
  (∀ (s : State) (hold : Bool),
    exec (.upstreamTransferStart hold) s =
      .next
        { s.begin with
          lane :=
            { s.lane with
              upstreamHold := hold
              sending := s.lane.sending || (!s.lane.queue.isEmpty && !hold) } } ∧
    exec (.upstreamTransferCut hold) s =
      .next { s.begin with lane := { s.lane with upstreamHold := hold, sending := false } }) ∧
  ∀ (s : State) (pins : Pins) (r : ReplyRecord) (rest : List ReplyRecord), s.lane.sending = true →
    s.lane.queue = r :: rest → rest.length < 8 →
    let freed : State :=
      { s with
        pins := pins, out := { noOutputs with laneUp := some r }
        lane := { s.lane with queue := rest, sending := false } }
    let forwarded (b : ReplyRecord) (grant : GrantMemory) : State :=
      { freed with
        out := { noOutputs with laneUp := some r, laneDown := true }
        lane :=
          { s.lane with
            queue := rest ++ [b], sending := false, buffer := none, grant := grant
            conflict := s.lane.conflict || b.source.toNat == s.lane.address.toNat } }
    let takes (k : Packet) (behind : List Packet) (grant : GrantMemory) : Prop :=
      ∃ t, exec (.upstreamTransferDone pins) s = .next t ∧
        Drains
          (closing s k
            (carryOut k.code k.payload { freed with intake := behind, lane := { freed.lane with grant := grant } })) t
    (s.lane.buffer = none → s.intake = [] ∨ s.frame = none → exec (.upstreamTransferDone pins) s = .next freed) ∧
    (∀ b, s.lane.buffer = some b → s.intake = [] ∨ s.frame = none →
      exec (.upstreamTransferDone pins) s = .next (forwarded b s.lane.grant)) ∧
    ∀ k behind, s.frame.isSome = true → s.intake = k :: behind → answered s k = true →
      (s.lane.buffer = none → takes k behind s.lane.grant) ∧
      (∀ b, s.lane.buffer = some b → s.lane.grant = .forward →
        exec (.upstreamTransferDone pins) s = .next (forwarded b .own)) ∧
      ∀ b, s.lane.buffer = some b → s.lane.grant = .own → takes k behind .forward

/-- DOWNSTREAM_RECORD_RECEIVED and DOWNSTREAM_RECORD_CUT_SHORT: a record that fails its check or is cut short is discarded with
RETURN_CRC and its transfer ends as accepted; one that checks is accepted into a free slot, setting CONFLICT where its source
is the node's address, or waits in the receive buffer (R179, R182). That a record whose number of bytes does not fit its data
length fails its check (log entry 15), and that nothing is received while the node holds its neighbour off (log entry 16), are
the model's readings. -/
def Obligations.ForwardedRecordsAreAcceptedHeldOrDiscarded : Prop :=
  ∀ (s : State) (bytes : List Byte),
    let lost : State :=
      { s.begin with
        lane := { s.lane with events := { s.lane.events with returnCrc := true } }
        out := { noOutputs with laneDown := true } }
    (s.resetn = true ∨ s.lane.buffer.isSome = true →
      exec (.downstreamRecordReceived bytes) s = .next s.begin ∧ exec .downstreamRecordCutShort s = .next s.begin) ∧
    (s.resetn = false → s.lane.buffer = none →
      exec .downstreamRecordCutShort s = .next lost ∧
      (parseRecord bytes = none → exec (.downstreamRecordReceived bytes) s = .next lost) ∧
      ∀ r, parseRecord bytes = some r →
        exec (.downstreamRecordReceived bytes) s =
          .next
            (if s.lane.queue.length < 8 then
              { s.begin with
                lane :=
                  { s.lane with
                    queue := s.lane.queue ++ [r]
                    conflict := s.lane.conflict || r.source.toNat == s.lane.address.toNat }
                out := { noOutputs with laneDown := true } }
             else { s.begin with lane := { s.lane with buffer := some r } }))

/-! ### RESETn -/

/-- RESETN_ASSERT puts every block in its reset state, with picture memory kept, no event standing, and the audit result RESET
where an audit ran; RESETN_RELEASE samples the straps and starts the timers (R29, R87, R181, R193). That the address is kept
during the assertion is the model's choice (log entry 18). -/
def Obligations.ResetPinHoldsAndReleasesTheNode : Prop :=
  ∀ (s : State) (pins : Pins),
    (s.resetn = false →
      exec .resetnAssert s =
        .next
          { State.reset with
            resetn := true
            pins := s.pins
            lane := { State.reset.lane with address := s.lane.address, upstreamHold := s.lane.upstreamHold }
            audit := ⟨none, if s.tables.stagedState = .auditing then .reset else .none⟩
            timing := { State.reset.timing with headerTimer := false, localTimer := false }
            photos := { State.reset.photos with memory := s.photos.memory }
            pending := s.pending }) ∧
    (s.resetn = true →
      exec (.resetnRelease pins) s =
        .next
          { s.begin with
            resetn := false
            pins := pins
            lane := { s.lane with address := pins.straps }
            timing := { s.timing with headerTimer := true, localTimer := true } })

/-- While RESETn is asserted no row but its release changes anything but the levels at the pins and what the ports carry: no
header is judged, no packet accepted, no frame started, no line composed or driven, no record sent or received (R193). -/
def Obligations.HeldNodeIgnoresEverything : Prop :=
  ∀ (i : Instr) (s t : State), HeldInReset s → (∀ pins, i ≠ .resetnRelease pins) → exec i s = .next t →
    HeldInReset t ∧
    t = { s with
          out := { noOutputs with through := streamOf i }
          pins := t.pins
          lane := { s.lane with upstreamHold := t.lane.upstreamHold } }

/-- The through port repeats the input stream line for line and mark for mark, unchanged, whatever the state, and carries
nothing else (R168). -/
def Obligations.ThroughPortRepeatsTheStream : Prop :=
  ∀ (i : Instr) (s t : State), exec i s = .next t → t.out.through = streamOf i

/-! ### Header lines and misses -/

/-- A good header in LIVE or LOSS_WAIT begins its own frame in LIVE: the number is adopted, the miss count 0, the canvas
held, the clock set where the time is in range; a pending take is cancelled by a discontinuity, else applied at its target
(R43, R44, R141, R142, R149, R152, R154). -/
def Obligations.GoodHeaderBeginsItsFrame : Prop :=
  ∀ (s : State) (line : List Byte) (pins : Pins) (h : Header), s.resetn = false → s.receiver.position = .awaitHeader →
    s.timing.link = .live ∨ s.timing.link = .lossWait → parseHeader line = some h → s.intake = [] →
    ∃ (t : State) (f : Frame),
      exec (.headerLineEnd line pins) s = .next t ∧ t.frame = some f ∧
      f.kind = .goodHeader ∧ f.inputOpen = true ∧ f.nextLine = 0 ∧ f.snap.number = h.number ∧
      f.snap.bank = t.tables.live ∧ t.timing.number = h.number ∧ t.timing.link = .live ∧ t.timing.miss = 0 ∧
      t.timing.missed = false ∧ t.timing.headerTimer = true ∧
      t.receiver = ⟨.lines 0, some (h.width, h.height)⟩ ∧
      (if h.hour < 24 ∧ h.minute < 60 ∧ h.second < 60 then
        t.timing.hour = h.hour ∧ t.timing.minute = h.minute ∧ t.timing.second = h.second ∧ t.timing.timeValid = true
       else
        t.timing.hour = s.timing.hour ∧ t.timing.minute = s.timing.minute ∧ t.timing.second = s.timing.second ∧
        t.timing.timeValid = s.timing.timeValid) ∧
      t.lane.events.linkChanged = (s.lane.events.linkChanged || s.timing.link == .lossWait) ∧
      (∀ target, s.tables.pendingTake = some target →
        if h.number ≠ s.timing.number + 1 then
          t.tables.pendingTake = none ∧ t.tables.live = s.tables.live ∧ t.lane.events.takeCancelled = true
        else if target = h.number then
          t.tables.pendingTake = none ∧ t.tables.live = s.tables.staged ∧ t.tables.staged = s.tables.staged ∧
          t.tables.stagedState = .clean ∧ t.lane.events.takeDone = true ∧
          t.photos.refCounts = allReferences s.tables.staged ∧ t.glyphs.useCounts = allFontUses s.tables.staged
        else t.tables.pendingTake = some target ∧ t.tables.live = s.tables.live)

/-- In SEARCH and STANDALONE a good header that does not complete the good count counts, holds the canvas and sets the
clock, and begins no frame; the second in SEARCH and the eighth in STANDALONE enters LIVE with its own frame; a bad header
clears the count (R148, R150, R151, R154). That the second header in SEARCH does so even before the local frame timer first
expires, against R140 and R192, is the model's choice (log entry 27). -/
def Obligations.HeadersCountTowardLive : Prop :=
  ∀ (s : State) (line : List Byte) (pins : Pins) (target : Nat), s.resetn = false →
    s.receiver.position = .awaitHeader → s.intake = [] →
    (s.timing.link = .search ∧ target = 2) ∨ (s.timing.link = .standalone ∧ target = 8) →
    (parseHeader line = none →
      exec (.headerLineEnd line pins) s =
        .next
          { s with
            pins := pins
            out := { noOutputs with through := [.line line] }
            receiver := { s.receiver with position := .lines 0 }
            timing := { s.timing with good := 0, headerTimer := true } }) ∧
    (∀ h, parseHeader line = some h → s.timing.good + 1 < target →
      ∃ t, exec (.headerLineEnd line pins) s = .next t ∧ t.frame = s.frame ∧ t.tables = s.tables ∧ t.lane = s.lane ∧
        t.timing.link = s.timing.link ∧ t.timing.number = s.timing.number ∧ t.timing.good = s.timing.good + 1 ∧
        t.timing.headerTimer = true ∧ t.timing.localTimer = s.timing.localTimer ∧
        t.receiver = ⟨.lines 0, some (h.width, h.height)⟩ ∧ t.out = { noOutputs with through := [.line line] } ∧
        (h.hour < 24 → h.minute < 60 → h.second < 60 →
          t.timing.hour = h.hour ∧ t.timing.minute = h.minute ∧ t.timing.second = h.second ∧
          t.timing.timeValid = true)) ∧
    (∀ h, parseHeader line = some h → target ≤ s.timing.good + 1 →
      ∃ t f, exec (.headerLineEnd line pins) s = .next t ∧ t.frame = some f ∧ f.kind = .goodHeader ∧
        f.inputOpen = true ∧ f.nextLine = 0 ∧ f.snap.number = h.number ∧ t.timing.number = h.number ∧
        t.timing.link = .live ∧ t.timing.good = 0 ∧ t.timing.miss = 0 ∧ t.timing.headerTimer = true ∧
        t.timing.localTimer = false ∧ t.lane.events.linkChanged = true)

/-- A bad header line or the expiry of the header timer in LIVE or LOSS_WAIT is a miss and begins a frame with the predicted
number: the first goes to LOSS_WAIT, the third to STANDALONE, whose entry cancels a pending take; otherwise a take due is
applied. The frame of a bad header takes its canvas lines at the held canvas size, every other is a local frame
(R43, R44, R141, R142, R146, R149, R152). -/
def Obligations.MissesBeginPredictedFrames : Prop :=
  ∀ (s : State) (i : Instr) (byHeader : Bool), s.resetn = false → s.frame.isSome = true → s.intake = [] →
    s.timing.link = .live ∨ s.timing.link = .lossWait →
    (byHeader = true ∧ s.receiver.position = .awaitHeader ∧
      ∃ line pins, i = .headerLineEnd line pins ∧ parseHeader line = none) ∨
    (byHeader = false ∧ s.timing.headerTimer = true ∧ ∃ pins, i = .headerTimerExpires pins) →
    ∃ (t : State) (f : Frame),
      let alone : Prop := s.timing.link = .lossWait ∧ 3 ≤ s.timing.miss + 1
      exec i s = .next t ∧ t.frame = some f ∧ t.timing.number = s.timing.number + 1 ∧
      f.snap.number = s.timing.number + 1 ∧ t.timing.missed = true ∧ t.timing.headerTimer = true ∧
      t.receiver.canvas = s.receiver.canvas ∧
      (s.timing.link = .live →
        t.timing.link = .lossWait ∧ t.timing.miss = 1 ∧ t.lane.events.linkChanged = true) ∧
      (s.timing.link = .lossWait → s.timing.miss + 1 < 3 →
        t.timing.link = .lossWait ∧ t.timing.miss = s.timing.miss + 1) ∧
      (alone →
        t.timing.link = .standalone ∧ t.timing.miss = 0 ∧ t.timing.good = 0 ∧ t.timing.localTimer = true ∧
        t.lane.events.linkChanged = true ∧ t.tables.pendingTake = none ∧ t.tables.live = s.tables.live ∧
        (s.tables.pendingTake.isSome = true → t.lane.events.takeCancelled = true)) ∧
      (byHeader = true → ¬ alone → f.kind = .badHeader ∧ f.inputOpen = true ∧ f.nextLine = 0) ∧
      (byHeader = false ∨ alone → f.kind = .localFrame ∧ f.inputOpen = false) ∧
      (¬ alone → ∀ target, s.tables.pendingTake = some target →
        if target = s.timing.number + 1 then
          t.tables.pendingTake = none ∧ t.tables.live = s.tables.staged ∧ t.lane.events.takeDone = true
        else t.tables.pendingTake = some target ∧ t.tables.live = s.tables.live)

/-! ### Lines of the input frame -/

/-- A frame-start mark, the loss of the signal or a line gap stops the input lines of a header frame that are still
arriving: the frame takes no more of them and a good-header frame in LIVE counts its miss; a request in flight ends as LOST,
a strip with its photo's last result, skipped count and queued strips, a glyph load with an EMPTY slot; and the first line
not yet composed is composed, every pixel over the fill colour, with the tiles and rings of the frame
(TilesAndRingsDrawAsTheirRulesSay); otherwise it stops nothing. A mark also begins an input frame (R106, R108, R115,
R144–R146, R149, R167). That no header is judged where no line is in progress, and that a line gap acts only here, is the
model's reading (log entries 11 and 21). Where a line is in progress it is cut short and repeated: a header line ends there
and is judged, and a packet line is read as far as it arrived, which fails with PACKET_CRC unless the whole packet had
arrived, each as the PACKET_LINE row reads it (log entry 17), and then the input stops; a cut line of another kind has not
arrived (R167–R169). That the cut line comes before the stop, and that a packet that had arrived whole counts, is the
model's reading (log entries 12 and 19). -/
def Obligations.StopsEndArrivingInputLines : Prop :=
  ∀ (s : State) (stop : Option (List Byte) → Instr) (pins : Pins), s.resetn = false →
    (stop = fun cut => .frameStartMark cut pins) ∨ (stop = fun cut => .inputSignalLoss cut pins) ∨
      (stop = fun cut => .lineGapTimeout cut pins) →
    let acts : Prop := stop none = .lineGapTimeout none pins → inputRunning s = true
    (inputRunning s = false →
      exec (stop none) s =
        .next
          { s with
            pins := pins
            out := { noOutputs with through := streamOf (stop none) }
            receiver :=
              { s.receiver with
                position :=
                  if stop none = .frameStartMark none pins then .awaitHeader else s.receiver.position } }) ∧
    (∀ f, s.frame = some f → inputRunning s = true →
      ∃ (t : State) (g : Frame),
        let counts : Prop := f.kind = .goodHeader ∧ s.timing.missed = false ∧ s.timing.link = .live
        let settings := f.snap.settings
        let granted := (lineGrants t f f.nextLine).1
        exec (stop none) s = .next t ∧ t.frame = some g ∧ g.inputOpen = false ∧ g.snap = f.snap ∧ g.kind = f.kind ∧
        (stop none = .frameStartMark none pins → t.receiver = ⟨.awaitHeader, s.receiver.canvas⟩) ∧
        (stop none ≠ .frameStartMark none pins → t.receiver = s.receiver) ∧
        (counts →
          t.timing = { s.timing with link := .lossWait, good := 0, miss := s.timing.miss + 1, missed := true } ∧
          t.lane.events.linkChanged = true) ∧
        (¬ counts → t.timing = s.timing) ∧
        (s.capture.inFlight = none → t.capture = s.capture ∧ t.photos = s.photos ∧ t.glyphs = s.glyphs) ∧
        (∀ id x y row rows n, s.capture.inFlight = some ⟨.strip id x y row rows, n⟩ →
          t.capture = ⟨s.capture.queue.filter fun q => !isStripOf id q, none⟩ ∧ t.glyphs = s.glyphs ∧
          t.photos = { s.photos with directory := t.photos.directory } ∧ t.lane.events.captureFailed = true ∧
          ∀ j,
            tget t.photos.directory j =
              if j = id then
                (tget s.photos.directory id).map fun r =>
                  { r with last := .lost, skipped := (s.capture.queue.filter (isStripOf id)).length }
              else tget s.photos.directory j) ∧
        (∀ font slot x y w h n, s.capture.inFlight = some ⟨.glyph font slot x y w h, n⟩ →
          t.capture = ⟨s.capture.queue, none⟩ ∧ t.photos = s.photos ∧ t.lane.events.captureFailed = true ∧
          t.glyphs = { s.glyphs with slots := s.glyphs.slots.set (font * 12 + slot) .empty }) ∧
        (f.nextLine < settings.vh →
          ∃ pixels,
            pixels = (List.range settings.vw).map (linePixel t f.snap granted (fun _ => settings.fill) f.nextLine) ∧
            t.out.composed = [⟨f.nextLine, pixels⟩] ∧ g.nextLine = f.nextLine + 1 ∧ g.tiles = tilesAfter granted ∧
            (f.tiles = [] → f.snap.high0 = none → f.snap.high1 = none →
              pixels = List.replicate settings.vw settings.fill)) ∧
        (settings.vh ≤ f.nextLine → g.nextLine = f.nextLine ∧ g.tiles = f.tiles ∧ t.out.composed = [])) ∧
    (∀ cut, ¬ acts →
      exec (stop (some cut)) s = .next { s with pins := pins, out := { noOutputs with through := [.line cut] } }) ∧
    (∀ cut, acts → s.receiver.position = .awaitHeader ∨ cut.head? = some 0x02 →
      ∃ u t, exec (.packetLine cut pins) s = .next u ∧ exec (stop none) u = .next t ∧
        exec (stop (some cut)) s = .next { t with out := u.out.followedBy t.out }) ∧
    (∀ cut, acts → s.receiver.position ≠ .awaitHeader → cut.head? ≠ some 0x02 →
      ∃ t, exec (stop none) s = .next t ∧
        exec (stop (some cut)) s =
          .next { t with out := { t.out with through := streamOf (stop (some cut)) } }) ∧
    ∀ bytes, acts → s.receiver.position = .lines 0 → parsePacket bytes = none →
      ∃ t, exec (stop (some (0x02 :: bytes))) s = .next t ∧ t.lane.events.packetCrc = true

/-- A PACKET line before the frame's first ACTIVE line hands its packet to Packet Intake: a packet that checks goes to the
target test whatever padding follows it, and one whose CRC bytes are wrong raises PACKET_CRC and nothing else. A PACKET line
after the first ACTIVE line, and a line of another kind, are repeated and not read (R167, R169, R194). That the row's name
does not matter is the model's choice (log entry 17). -/
def Obligations.PacketLinesReachIntakeBeforeActiveLines : Prop :=
  ∀ (s : State) (k : Packet) (padding : List Byte) (pins : Pins) (crc : Nat), s.resetn = false →
    k.payload.length ≤ 240 →
    let repeated (line : List Byte) : State :=
      { s with pins := pins, out := { noOutputs with through := [.line line] } }
    (s.receiver.position = .lines 0 →
      exec (.packetLine (0x02 :: (encodePacket k ++ padding)) pins) s =
        .next (packetArrives (repeated (0x02 :: (encodePacket k ++ padding))) k)) ∧
    (s.receiver.position = .lines 0 → crc < 65536 → crc ≠ (crc16 (packetBody k)).toNat →
      exec (.packetLine (0x02 :: (packetBody k ++ put16 crc ++ padding)) pins) s =
        .next ((repeated (0x02 :: (packetBody k ++ put16 crc ++ padding))).raise .packetCrc)) ∧
    (∀ (n : Nat) (line : List Byte), s.receiver.position = .lines (n + 1) → line.head? = some 0x02 →
      exec (.packetLine line pins) s = .next (repeated line)) ∧
    (∀ (n : Nat) (line : List Byte), s.receiver.position = .lines n → line.head? ≠ some 0x02 → line.head? ≠ some 0x01 →
      exec (.packetLine line pins) s = .next (repeated line)) ∧
    (s.receiver.position = .outside → ∀ line, exec (.packetLine line pins) s = .next (repeated line))

/-- An ACTIVE line of a frame whose input lines are arriving is counted, and where the viewport covers it composes its
output line, one pixel for each viewport column: over the canvas pixel of its column or the fill colour, the tiles the
line's budget grants or degrades, in draw order, then the rings (R113, R114, R122, R129, R135), as
TilesAndRingsDrawAsTheirRulesSay and LineGrantsStayWithinTheBudget say; a tile degraded on the line has BUDGET_SHORT set in
the frame's tile list (R130, R136). A line of a frame whose input lines are not arriving is counted and composes nothing
(R145, R167). That a pixel of fewer than three bytes is none is the model's reading (log entry 10). -/
def Obligations.ActiveLinesComposeTheirOutputLine : Prop :=
  ∀ (s : State) (f : Frame) (a : Nat) (bytes : List Byte), s.resetn = false → s.receiver.position = .lines a →
    s.frame = some f →
    ∃ t, exec (.activeLine (0x01 :: bytes)) s = .next t ∧ t.receiver = ⟨.lines (a + 1), s.receiver.canvas⟩ ∧
      t.timing = s.timing ∧ t.tables = s.tables ∧ t.kept = s.kept ∧
      (inputRunning s = false → t.out.composed = [] ∧ t.frame = s.frame ∧ t.photos = s.photos) ∧
      (inputRunning s = true →
        let settings := f.snap.settings
        (¬ (settings.vy ≤ a ∧ a < settings.vy + settings.vh) → t.out.composed = [] ∧ t.frame = s.frame) ∧
        (settings.vy ≤ a → a < settings.vy + settings.vh →
          let n := a - settings.vy
          let granted := (lineGrants s f n).1
          let base (x : Nat) : Color :=
            if settings.vx + x < canvasWidth s ∧ 3 * (settings.vx + x) + 2 < bytes.length then
              colorAt bytes (3 * (settings.vx + x))
            else settings.fill
          ∃ pixels g, t.out.composed = [⟨n, pixels⟩] ∧ pixels.length = settings.vw ∧
            pixels = (List.range settings.vw).map (linePixel s f.snap granted base n) ∧
            t.frame = some g ∧ g.nextLine = n + 1 ∧ g.snap = f.snap ∧ g.tiles = tilesAfter granted ∧
            (f.tiles = [] → f.snap.high0 = none → f.snap.high1 = none →
              ∀ x, x < settings.vw → pixels[x]? = some (base x))))

/-- The Capture Engine at a frame start (R102, R106, R108): a request still in flight fails with LOST, a strip taking its
photo's queued strips with it; then, where the end of a good header line made the frame start, the oldest request that is
left is armed if its source lies within that header's canvas, and fails with OUT_OF_CANVAS if not; any other frame start
arms nothing. -/
def Obligations.GoodHeadersArmTheOldestRequest : Prop :=
  ∀ (s : State) (i : Instr), s.resetn = false → BeginsFrame s i →
    ∃ (u t : State) (queue : List CaptureRequest) (directory : Table PhotoRec) (slots : List GlyphSlot),
      let failed (id : Nat) (result : StripResult) (before : Table PhotoRec) (waiting : List CaptureRequest)
          (after : Table PhotoRec) (left : List CaptureRequest) : Prop :=
        left = (waiting.filter fun q => !isStripOf id q) ∧
        ∀ j,
          tget after j =
            if j = id then
              (tget before id).map fun r =>
                { r with last := result, skipped := (waiting.filter (isStripOf id)).length }
            else tget before j
      exec i s = .next t ∧ Drains u t ∧ u.intake = s.intake ∧
      (s.capture.inFlight = none →
        queue = s.capture.queue ∧ directory = s.photos.directory ∧ slots = s.glyphs.slots) ∧
      (∀ id x y row rows n, s.capture.inFlight = some ⟨.strip id x y row rows, n⟩ →
        failed id .lost s.photos.directory s.capture.queue directory queue ∧ slots = s.glyphs.slots ∧
        u.lane.events.captureFailed = true) ∧
      (∀ font slot x y w h n, s.capture.inFlight = some ⟨.glyph font slot x y w h, n⟩ →
        queue = s.capture.queue ∧ directory = s.photos.directory ∧
        slots = s.glyphs.slots.set (font * 12 + slot) .empty ∧ u.lane.events.captureFailed = true) ∧
      (queue = [] ∨ (∀ line, streamOf i = [.line line] → parseHeader line = none) →
        u.capture = ⟨queue, none⟩ ∧ u.photos.directory = directory ∧ u.glyphs.slots = slots) ∧
      ∀ line header request rest, streamOf i = [.line line] → parseHeader line = some header → queue = request :: rest →
        (∀ id x y row rows r, request = .strip id x y row rows → tget directory id = some r →
          u.glyphs.slots = slots ∧
          (x + r.w ≤ header.width → y + rows ≤ header.height →
            u.capture = ⟨rest, some ⟨request, 0⟩⟩ ∧ u.photos.directory = directory) ∧
          (header.width < x + r.w ∨ header.height < y + rows →
            failed id .outOfCanvas directory rest u.photos.directory u.capture.queue ∧ u.capture.inFlight = none ∧
            u.lane.events.captureFailed = true)) ∧
        ∀ font slot x y w h, request = .glyph font slot x y w h →
          u.photos.directory = directory ∧
          (x + w ≤ header.width → y + h ≤ header.height →
            u.capture = ⟨rest, some ⟨request, 0⟩⟩ ∧ u.glyphs.slots = slots) ∧
          (header.width < x + w ∨ header.height < y + h →
            u.capture = ⟨rest, none⟩ ∧ u.glyphs.slots = slots.set (font * 12 + slot) .empty ∧
            u.lane.events.captureFailed = true)

/-- What an ACTIVE line does for the request in flight (R97, R103–R107, R131). A source line of a strip that the line's
remaining budget covers is written whole, canvas column x + px to column px of its row, and no other pixel of the photo; the
last one completes the strip: rows filled, DONE, READY where the photo is full, CAPTURE_DONE. Where the photo's width
exceeds the remainder the strip fails with OVERRUN, where the line lacks source columns with LOST, and its photo's queued
strips go; where both hold, which of the two is a free value (log entry 9). A cell line of a glyph is written as ink, luma
128 or more; the last one makes the slot LOADED; a cell line that lacks columns makes it EMPTY. A line outside the source
changes nothing. That the strip lies within its photo, and the photo's blocks in the memory, is the invariant
StepKeepsBlockPartition. -/
def Obligations.CaptureLinesWriteTheirSourceAndEnd : Prop :=
  ∀ (s : State) (f : Frame) (a : Nat) (bytes : List Byte), s.resetn = false → s.receiver.position = .lines a →
    s.frame = some f → inputRunning s = true →
    let carries (x w : Nat) : Prop := x + w ≤ canvasWidth s ∧ 3 * (x + w) ≤ bytes.length
    let left : Nat :=
      if f.snap.settings.vy ≤ a ∧ a < f.snap.settings.vy + f.snap.settings.vh then
        (lineGrants s f (a - f.snap.settings.vy)).2
      else 3072
    ∃ t, exec (.activeLine (0x01 :: bytes)) s = .next t ∧
      (s.capture.inFlight = none → t.capture = s.capture ∧ t.photos = s.photos ∧ t.glyphs = s.glyphs) ∧
      (∀ id x y row rows n r, s.capture.inFlight = some ⟨.strip id x y row rows, n⟩ →
        tget s.photos.directory id = some r →
        let fails (result : StripResult) : Prop :=
          t.capture = ⟨s.capture.queue.filter fun q => !isStripOf id q, none⟩ ∧ t.lane.events.captureFailed = true ∧
          t.photos.memory = s.photos.memory ∧
          tget t.photos.directory id =
            some { r with last := result, skipped := (s.capture.queue.filter (isStripOf id)).length }
        t.glyphs = s.glyphs ∧
        (a < y ∨ y + rows ≤ a → t.capture = s.capture ∧ t.photos = s.photos) ∧
        (y ≤ a → a < y + rows →
          (carries x r.w → left < r.w → fails .overrun) ∧
          (¬ carries x r.w → r.w ≤ left → fails .lost) ∧
          (¬ carries x r.w → left < r.w → fails .overrun ∨ fails .lost) ∧
          (carries x r.w → r.w ≤ left →
            (BlocksPartitioned s.photos → PhotosSized s.photos → StripsInPhotos s →
              ∀ px py, px < r.w → py < r.h →
                photoPixel t.photos.memory r px py =
                  if py = row + (a - y) then colorAt bytes (3 * (x + px)) else photoPixel s.photos.memory r px py) ∧
            (a + 1 < y + rows →
              t.capture = ⟨s.capture.queue, some ⟨.strip id x y row rows, n + 1⟩⟩ ∧
              t.photos.directory = s.photos.directory ∧ t.lane.events = s.lane.events) ∧
            (a + 1 = y + rows →
              t.capture = ⟨s.capture.queue, none⟩ ∧ t.lane.events.captureDone = true ∧
              tget t.photos.directory id =
                some
                  { r with
                    rowsFilled := r.rowsFilled + rows, last := .done, skipped := 0
                    state := if r.rowsFilled + rows = r.h then .ready else r.state })))) ∧
      ∀ font slot x y w h n lines, s.capture.inFlight = some ⟨.glyph font slot x y w h, n⟩ →
        s.glyphs.slots[font * 12 + slot]? = some (.loading lines) →
        let written : List (List Bool) :=
          lines ++
            [(List.range w).map fun i =>
              let c := colorAt bytes (3 * (x + i))
              decide (128 ≤ (77 * c.r.toNat + 150 * c.g.toNat + 29 * c.b.toNat) / 256)]
        let becomes (glyph : GlyphSlot) (engine : CaptureEngine) : Prop :=
          t.glyphs = { s.glyphs with slots := s.glyphs.slots.set (font * 12 + slot) glyph } ∧ t.capture = engine
        t.photos = s.photos ∧
        (a < y ∨ y + h ≤ a → t.capture = s.capture ∧ t.glyphs = s.glyphs) ∧
        (y ≤ a → a < y + h →
          (¬ carries x w → becomes .empty ⟨s.capture.queue, none⟩ ∧ t.lane.events.captureFailed = true) ∧
          (carries x w → a + 1 < y + h →
            becomes (.loading written) ⟨s.capture.queue, some ⟨.glyph font slot x y w h, n + 1⟩⟩) ∧
          (carries x w → a + 1 = y + h →
            becomes (.loaded w h written) ⟨s.capture.queue, none⟩ ∧ t.lane.events.captureDone = true))

/-- Only a strip's own photo is written: after an ACTIVE line every pixel of every other photo reads as before; without a
strip in flight picture memory is unchanged (R87, R88, R103). -/
def Obligations.StripLinesWriteOnlyTheirPhoto : Prop :=
  ∀ (s t : State) (line : List Byte), BlocksPartitioned s.photos → exec (.activeLine line) s = .next t →
    (∀ id r px py, tget s.photos.directory id = some r → px < r.w → py < r.h →
      (∀ x y row rows n, s.capture.inFlight ≠ some ⟨.strip id x y row rows, n⟩) →
      photoPixel t.photos.memory r px py = photoPixel s.photos.memory r px py) ∧
    ((∀ id x y row rows n, s.capture.inFlight ≠ some ⟨.strip id x y row rows, n⟩) →
      t.photos.memory = s.photos.memory)

/-! ### Timers -/

/-- GAP_TIMER_EXPIRES clears the good count in SEARCH and STANDALONE (R148, R150), and CLOCK_SECOND_TICK advances the clock
by one second with carries, 23:59:59 to 00:00:00 (R154). Nothing else changes. That the gap timer stands still until the
next header line is the model's reading (log entry 13). -/
def Obligations.GapTimerAndClockAdvance : Prop :=
  ∀ s : State,
    exec .gapTimerExpires s =
      .next
        (if s.timing.headerTimer = true ∧ (s.timing.link = .search ∨ s.timing.link = .standalone) then
          { s.begin with timing := { s.timing with good := 0, headerTimer := false } }
         else s.begin) ∧
    (s.resetn = false → TimingInRange s.timing →
      ∃ t : State, exec .clockSecondTick s = .next t ∧
        t = { s.begin with
              timing := { s.timing with hour := t.timing.hour, minute := t.timing.minute, second := t.timing.second } } ∧
        t.timing.hour < 24 ∧ t.timing.minute < 60 ∧ t.timing.second < 60 ∧
        (t.timing.hour * 3600 + t.timing.minute * 60 + t.timing.second) % 86400 =
          (s.timing.hour * 3600 + s.timing.minute * 60 + s.timing.second + 1) % 86400)

/-- LOCAL_FRAME_TIMER_EXPIRES in SEARCH and STANDALONE: a local frame begins, numbered 0 where it is the first after a reset
and else one more than the last; its snapshot is fixed from the live bank, the clock, the settings, the highlight slots, the
gamma tables and the backlight override as they stand; its active entry is the live schedule's at that minute, an override
UNTIL_BOUNDARY is released where the entry's start, page or column differ from the previous frame's, an override still held
gives page and column, else the entry, else 0 and 0; the ended frame's flags are kept; the packets that wait are then taken
(R48, R49, R54, R55, R58, R137, R140, R143, R152, R163, R172). What the active entry is, ActiveEntryIsTheLatestStarted says;
the rest of the snapshot (item statuses, price cache, text plans, photo and glyph states), the frame tile list and the line
composed, EveryFrameStartFixesItsSnapshot says, of this frame start and every other. -/
def Obligations.LocalFrameFixesItsSnapshot : Prop :=
  ∀ (s : State) (pins : Pins), s.resetn = false → s.timing.localTimer = true →
    s.timing.link = .search ∨ s.timing.link = .standalone → s.tables.pendingTake = none →
    ∃ (u t : State) (f : Frame),
      let entry : Option (Nat × Nat × Nat) := f.snap.active.map fun e => (e.2.start, e.2.page, e.2.column)
      let before : Option (Nat × Nat × Nat) := s.context.prev.map fun e => (e.start, e.page, e.column)
      let released : Prop := ∃ o, s.context.override = some o ∧ o.mode = .untilBoundary ∧ entry ≠ before
      exec (.localFrameTimerExpires pins) s = .next t ∧ Drains u t ∧ u.intake = s.intake ∧
      u.lane.queue = s.lane.queue ∧ u.frame = some f ∧ f.kind = .localFrame ∧
      f.inputOpen = false ∧ f.snap.number = u.timing.number ∧
      u.timing.number = (if s.frame.isSome then s.timing.number + 1 else 0) ∧ u.timing.link = s.timing.link ∧
      u.timing.localTimer = true ∧ u.timing.missed = false ∧ u.tables.live = s.tables.live ∧
      f.snap.bank = s.tables.live ∧ f.snap.minute = s.timing.hour * 60 + s.timing.minute ∧
      f.snap.timeValid = s.timing.timeValid ∧ f.snap.settings = s.context.settings ∧
      f.snap.high0 = s.context.high0 ∧ f.snap.high1 = s.context.high1 ∧ f.snap.gamma = s.output.gamma ∧
      f.snap.target =
        (match s.output.override with
         | some held => held
         | none => f.snap.schedTarget) ∧
      f.snap.active =
        activeEntry s.timing.timeValid (s.timing.hour * 60 + s.timing.minute) s.tables.live.schedule ∧
      (released → u.context.override = none) ∧ (¬ released → u.context.override = s.context.override) ∧
      u.context.prev.map (fun e => (e.start, e.page, e.column)) = entry ∧ u.context.settings = s.context.settings ∧
      u.context.high0 = s.context.high0 ∧ u.context.high1 = s.context.high1 ∧
      (∀ o, u.context.override = some o → f.snap.page = o.page ∧ f.snap.column = o.column) ∧
      (∀ i e, f.snap.active = some (i, e) →
        f.snap.schedTarget = e.target ∧
        (u.context.override = none → f.snap.page = e.page ∧ f.snap.column = e.column)) ∧
      (f.snap.active = none →
        f.snap.schedTarget = s.context.settings.defaultTarget ∧
        (u.context.override = none → f.snap.page = 0 ∧ f.snap.column = 0)) ∧
      (∀ e, s.frame = some e →
        u.kept = some ⟨e.snap.number, e.snap.page, e.tiles.map fun x => (x.id, x.flags)⟩) ∧
      (s.frame = none → u.kept = s.kept) ∧
      (0 < s.context.settings.vh → f.nextLine = 1 ∧ ∃ pixels, u.out.composed = [⟨0, pixels⟩])

/-- The snapshot and the tile list of every frame, whatever makes its start (R49). From the live bank of the frame (R50), in
the frame's column: the status of each item against the stock map as it stands (R60–R62), and the price cache (R65, R66).
The photo states as the directory holds them; the glyph states, a glyph load still in flight being LOST first (R108), its
slot EMPTY; and the text plans made from them (R78, R79). What these tables hold, ItemStatusesAndPricesFollowTheirRules and
TextPlansFollowTheOrderOfTests say. The number, the clock, the active entry and the page, column and target it gives, or an
override (R54, R55, R163); the settings, the highlights and the gamma tables. The tile list is frameTiles of the snapshot
(R117; FrameTilesFollowTheirRecords), with BUDGET_SHORT where the line 0 that a local frame composes at once degrades a tile
(R130, R136, R144). The packets that wait are taken after it (R172). That the second good header in SEARCH begins a frame
even before the local frame timer first expires is the model's choice (log entry 27). -/
def Obligations.EveryFrameStartFixesItsSnapshot : Prop :=
  ∀ (s : State) (i : Instr), s.resetn = false → BeginsFrame s i →
    ∃ (u t : State) (f : Frame),
      let slots : List GlyphSlot :=
        match s.capture.inFlight with
        | some ⟨.glyph font slot _ _ _ _, _⟩ => s.glyphs.slots.set (font * 12 + slot) .empty
        | _ => s.glyphs.slots
      let snap := f.snap
      exec i s = .next t ∧ Drains u t ∧ u.intake = s.intake ∧ u.frame = some f ∧
      snap.bank = u.tables.live ∧ (s.tables.pendingTake = none → u.tables.live = s.tables.live) ∧
      snap.status = itemStatuses snap.bank snap.column s.tables.stock ∧
      snap.cache = priceCache snap.bank snap.column ∧
      (∀ id, tget snap.photos id = (tget s.photos.directory id).map fun r => r.state) ∧
      snap.glyphs = slots.map slotLoaded ∧
      snap.plans = textPlans snap.bank snap.page snap.cache snap.glyphs slots ∧
      snap.number = u.timing.number ∧ snap.minute = u.timing.hour * 60 + u.timing.minute ∧
      snap.timeValid = u.timing.timeValid ∧
      snap.active = activeEntry snap.timeValid snap.minute snap.bank.schedule ∧
      (∀ o, u.context.override = some o → snap.page = o.page ∧ snap.column = o.column) ∧
      (∀ k e, snap.active = some (k, e) →
        snap.schedTarget = e.target ∧ (u.context.override = none → snap.page = e.page ∧ snap.column = e.column)) ∧
      (snap.active = none →
        snap.schedTarget = s.context.settings.defaultTarget ∧
        (u.context.override = none → snap.page = 0 ∧ snap.column = 0)) ∧
      (∀ held, s.output.override = some held → snap.target = held) ∧
      (s.output.override = none → snap.target = snap.schedTarget) ∧
      snap.settings = s.context.settings ∧ snap.high0 = s.context.high0 ∧ snap.high1 = s.context.high1 ∧
      snap.gamma = s.output.gamma ∧
      (f.kind ≠ .localFrame ∨ snap.settings.vh = 0 →
        f.tiles = frameTiles snap ∧ f.nextLine = 0 ∧ u.out.composed = []) ∧
      (f.kind = .localFrame → 0 < snap.settings.vh →
        let granted := (grantTiles u.photos.directory 0 3072 (frameTiles snap)).1
        f.tiles = tilesAfter granted ∧ f.nextLine = 1 ∧
        u.out.composed =
          [⟨0, (List.range snap.settings.vw).map (linePixel u snap granted (fun _ => snap.settings.fill) 0)⟩])

/-- At every frame start, whether a good header, a bad header, the header timer or the local frame timer makes it, the panel
sense sample is counted, the fourth at the other level running changes the panel state, and the backlight level takes one
fade step toward the frame's target while the panel is PRESENT, never past it, and is 0 while it is ABSENT; the panel port
marks the frame and carries its lines only while PRESENT; the packets that wait are then taken (R160, R161, R165, R166,
R172). -/
def Obligations.FrameStartsDebouncePanelAndFadeBacklight : Prop :=
  ∀ (s : State) (i : Instr), s.resetn = false → BeginsFrame s i → PanelSafe s.output →
    ∃ (u t : State) (f : Frame),
      let agrees : Prop := (pinsOf s i).panelSense = true ↔ s.output.panel = .present
      exec i s = .next t ∧ Drains u t ∧ u.intake = s.intake ∧ u.frame = some f ∧
      (agrees → u.output.panel = s.output.panel ∧ u.output.debounce = 0) ∧
      (¬ agrees → s.output.debounce < 3 →
        u.output.panel = s.output.panel ∧ u.output.debounce = s.output.debounce + 1) ∧
      (¬ agrees → s.output.debounce = 3 →
        u.output.panel ≠ s.output.panel ∧ u.output.debounce = 0 ∧ u.lane.events.panelChanged = true) ∧
      (u.output.panel = .absent → u.output.level = 0 ∧ u.out.panel = []) ∧
      (u.output.panel = .present →
        u.out.panel.head? = some .frameMark ∧
        (s.output.level.toNat ≤ f.snap.target.toNat →
          u.output.level.toNat = min f.snap.target.toNat (s.output.level.toNat + f.snap.settings.fadeStep.toNat)) ∧
        (f.snap.target.toNat ≤ s.output.level.toNat →
          u.output.level.toNat = max f.snap.target.toNat (s.output.level.toNat - f.snap.settings.fadeStep.toNat)))

/-- One check runs per frame, whatever makes the frame start: at the first frame start after AUDIT the next check begins to
run; at the frame start that ends the frame it runs in it is evaluated, on the state as it stands once a request still in
flight is LOST (R108), and the audit fails at its first failure, goes on to the next enabled check, or passes after the
last; an audit with no check enabled passes at once. AUDIT_DONE is raised exactly at completion; the packets that wait are
taken after it (R31, R32, R172). That no take is pending beside a running audit is the invariant StepKeepsTakeSafe. What
each check tests, and which failure it reports, AuditChecksNamesPhotosAndSchedule and AuditChecksPricesAndLineDemands say. -/
def Obligations.AuditRunsOneCheckPerFrame : Prop :=
  ∀ (s : State) (i : Instr) (p : AuditProgress), s.resetn = false → BeginsFrame s i → TakeSafe s →
    s.audit.progress = some p →
    ∃ u t, exec i s = .next t ∧ Drains u t ∧ u.intake = s.intake ∧ u.tables.staged = s.tables.staged ∧
      let ended : State := failInFlight s .lost
      let completes (state : StagedState) (result : AuditResult) : Prop :=
        u.tables.stagedState = state ∧ u.audit = ⟨none, result⟩ ∧ u.lane.events.auditDone = true
      let goesOn (next : Nat) : Prop :=
        u.tables.stagedState = .auditing ∧ u.audit = ⟨some ⟨p.enabled, some next, true⟩, s.audit.result⟩ ∧
        u.lane.events.auditDone = s.lane.events.auditDone
      (p.next = none → completes .passed .passed) ∧
      ∀ c, p.next = some c →
        (p.running = false → goesOn c) ∧
        (p.running = true →
          (∀ failure, runCheck ended c = some failure → completes .failed (.failed c failure)) ∧
          (runCheck ended c = none →
            (∀ d, c < d → d ≤ 5 → maskHas p.enabled d = true →
              (∀ e, c < e → e < d → maskHas p.enabled e = false) → goesOn d) ∧
            ((∀ d, c < d → d ≤ 5 → maskHas p.enabled d = false) → completes .passed .passed)))

/-- LOCAL_LINE_TIMER composes the next output line over the fill colour, with the frame's tiles and rings, where the frame
in progress has no input line to wait for and a line is left (R113, R115, R129, R130, R144); that otherwise nothing happens
is the model's reading (log entry 13). -/
def Obligations.LocalLinesComposeTheNextLineOverFill : Prop :=
  ∀ s : State,
    (s.frame = none ∨ inputRunning s = true → exec .localLineTimer s = .next s.begin) ∧
    ∀ f, s.frame = some f → inputRunning s = false →
      (f.snap.settings.vh ≤ f.nextLine → exec .localLineTimer s = .next s.begin) ∧
      (f.nextLine < f.snap.settings.vh →
        let granted := (lineGrants s f f.nextLine).1
        ∃ t g pixels, exec .localLineTimer s = .next t ∧ t.frame = some g ∧ g.nextLine = f.nextLine + 1 ∧
          g.snap = f.snap ∧ g.tiles = tilesAfter granted ∧
          t.out.composed = [⟨f.nextLine, pixels⟩] ∧ pixels.length = f.snap.settings.vw ∧
          pixels =
            (List.range f.snap.settings.vw).map
              (linePixel s f.snap granted (fun _ => f.snap.settings.fill) f.nextLine) ∧
          t.photos = s.photos ∧ t.timing = s.timing ∧ t.lane = s.lane ∧
          (s.output.panel = .absent → t.out.panel = []) ∧
          (s.output.panel = .present →
            t.out.panel = [.line f.nextLine (pixels.map (gammaPixel f.snap.gamma))]) ∧
          (f.tiles = [] → f.snap.high0 = none → f.snap.high1 = none →
            pixels = List.replicate f.snap.settings.vw f.snap.settings.fill))

/-! ### What a frame is drawn from -/

/-- The active entry is the entry with the greatest start not above the minute, or the last entry where every start is above
it; there is none while time is invalid or the schedule is empty (R54). -/
def Obligations.ActiveEntryIsTheLatestStarted : Prop :=
  ∀ (valid : Bool) (minute : Nat) (l : List SchedEntry), List.Pairwise (fun a b => a.start < b.start) l →
    (activeEntry valid minute l = none ↔ valid = false ∨ l = []) ∧
    ∀ i e, activeEntry valid minute l = some (i, e) →
      l[i]? = some e ∧
      ((e.start ≤ minute ∧ ∀ x ∈ l, x.start ≤ minute → x.start ≤ e.start) ∨
       ((∀ x ∈ l, minute < x.start) ∧ i + 1 = l.length))

/-- Stage D of the price arithmetic: EXACT passes the value; UP gives the smallest multiple of the step not below it; NEAREST a
multiple within half a step, the higher where two are as near; ENDING the smallest value of the form k × S + E not below it
(R71, R72).
A printed price reads as its value: its digits have no needless leading zero, the decimal mark stands before exactly two minor
digits where it is printed, the symbol stands on its side, and there are 1 to 8 glyphs (R74–R77). -/
def Obligations.PricesRoundAndPrintAsTheFormatSays : Prop :=
  (∀ (f : PriceFormat) (v : Nat), 0 < f.step → f.ending < f.step →
    (f.rounding = .exact → roundStep f v = v) ∧
    (f.rounding = .up →
      f.step ∣ roundStep f v ∧ v ≤ roundStep f v ∧ ∀ m, f.step ∣ m → v ≤ m → roundStep f v ≤ m) ∧
    (f.rounding = .nearest →
      f.step ∣ roundStep f v ∧ 2 * roundStep f v ≤ 2 * v + f.step ∧ 2 * v < 2 * roundStep f v + f.step) ∧
    (f.rounding = .ending →
      (∃ k, roundStep f v = k * f.step + f.ending) ∧ v ≤ roundStep f v ∧
      ∀ k, v ≤ k * f.step + f.ending → roundStep f v ≤ k * f.step + f.ending)) ∧
  ∀ (f : PriceFormat) (v : Nat), v ≤ 999999 →
    ∃ whole : List Nat,
      (∀ d ∈ whole, d ≤ 9) ∧ 1 ≤ whole.length ∧ (whole.head? = some 0 → whole = [0]) ∧
      glyphSequence f v =
        (if f.symbol = .before then [11] else []) ++
        (if f.minor = .two ∧ ¬ (f.shortForm = true ∧ v % 100 = 0) then whole ++ [10, v / 10 % 10, v % 10] else whole) ++
        (if f.symbol = .after then [11] else []) ∧
      whole.foldl (fun n d => 10 * n + d) 0 = (if f.minor = .two then v / 100 else v) ∧
      1 ≤ (glyphSequence f v).length ∧ (glyphSequence f v).length ≤ 8

/-- What a tile and a highlight ring draw on a pixel. A line's pixel is its base, then the tiles in their order, then slot
0's ring and slot 1's (R122, R135). Each tile that is shown, blink visible and has the pixel in its clipped rect blends its
fill over the running colour, then its content's pixel over that, where the content has one and the line does not degrade
the tile (R122, R124, R130): the photo's pixel, transparent where it equals the key colour (R125), or the ink of a text, its
glyphs side by side from the start column (R82, R126); each source colour grey where the tile is dimmed (R127). A ring pixel
lies within the thickness of the edge of the tile's rect grown by the margin, and takes the slot's colour where the slot is
set, its tile is on the page and its blink shows it (R134, R135). A blend is the rounded weighted mean on each channel,
between its two colours (R123). That a tile's clipped rect lies within its rect, so that the pixel of a text lies right of
the tile's edge, is in FrameTilesFollowTheirRecords. -/
def Obligations.TilesAndRingsDrawAsTheirRulesSay : Prop :=
  (∀ (c d : Byte) (a : Nat), a ≤ 255 →
    (blendChannel c d a).toNat = (a * c.toNat + (255 - a) * d.toNat + 127) / 255 ∧
    blendChannel c d 255 = c ∧ blendChannel c d 0 = d ∧
    min c.toNat d.toNat ≤ (blendChannel c d a).toNat ∧ (blendChannel c d a).toNat ≤ max c.toNat d.toNat) ∧
  (∀ (c d : Color) (a : Nat), blend c d a = ⟨blendChannel c.r d.r a, blendChannel c.g d.g a, blendChannel c.b d.b a⟩) ∧
  (∀ (s : State) (snap : Snapshot) (granted : List (TileEntry × Bool)) (base : Nat → Color) (n x : Nat),
    linePixel s snap granted base n x =
      drawRing snap snap.high1 n x
        (drawRing snap snap.high0 n x (granted.foldl (fun d g => drawTile s snap n x d g) (base x)))) ∧
  (∀ (snap : Snapshot) (slot : Option Highlight) (n x : Nat) (d : Color),
    let ringed (h : Highlight) : Prop :=
      ∃ t, tget snap.bank.tiles (snap.page * 48 + h.tile) = some t ∧
        (h.blink = 0 ∨ snap.number.toNat / h.blink.toNat % 2 = 0) ∧
        let left := t.x - h.margin
        let right := t.x + t.w + h.margin
        let top := t.y - h.margin
        let bottom := t.y + t.h + h.margin
        (left ≤ x ∧ (x : Int) < right ∧ top ≤ n ∧ (n : Int) < bottom) ∧
        ((x : Int) < left + h.thickness ∨ right - h.thickness ≤ x ∨
          (n : Int) < top + h.thickness ∨ bottom - h.thickness ≤ n)
    (slot = none → drawRing snap slot n x d = d) ∧
    ∀ h, slot = some h →
      (ringed h → drawRing snap slot n x d = h.color) ∧ (¬ ringed h → drawRing snap slot n x d = d)) ∧
  ∀ (s : State) (snap : Snapshot) (n x : Nat) (d : Color) (e : TileEntry) (degraded : Bool),
    let t := e.tile
    let covers : Prop :=
      e.shown = true ∧ e.blinkVisible = true ∧ e.clip.x0 ≤ x ∧ x < e.clip.x1 ∧ e.clip.y0 ≤ n ∧ n < e.clip.y1
    let grey (c : Color) : Byte :=
      BitVec.ofNat 8
        (((77 * c.r.toNat + 150 * c.g.toNat + 29 * c.b.toNat) / 256 * snap.settings.dim.toNat + 127) / 255)
    let source (c : Color) : Color := if e.dimmed then ⟨grey c, grey c, grey c⟩ else c
    let filled : Color :=
      match t.fill with
      | some fill => blend (source fill.color) d fill.opacity.toNat
      | none => d
    let drawn := drawTile s snap n x d (e, degraded)
    (¬ covers → drawn = d) ∧
    (covers → degraded = true ∨ e.content = .none → drawn = filled) ∧
    (∀ id own ox oy, covers → degraded = false → e.content = .photo id → t.body = .photo own ox oy →
      (tget s.photos.directory id = none → drawn = filled) ∧
      ∀ r, tget s.photos.directory id = some r →
        let px := (x : Int) - t.x - ox
        let py := (n : Int) - t.y - oy
        let inside : Prop := 0 ≤ px ∧ px < r.w ∧ 0 ≤ py ∧ py < r.h
        let pixel := photoPixel s.photos.memory r px.toNat py.toNat
        (¬ inside → drawn = filled) ∧
        (inside → r.key = some pixel → drawn = filled) ∧
        (inside → r.key ≠ some pixel → drawn = blend (source pixel) filled t.opacity.toNat)) ∧
    ∀ start style item v glyphs, covers → degraded = false → t.x ≤ x → e.content = .text start → t.body = .price style →
      t.item = some item → tget snap.cache item = some (.priced v glyphs) →
      let slot (g : Nat) : GlyphSlot := s.glyphs.slots.getD (style.font * 12 + g) .empty
      let width (g : Nat) : Nat :=
        match slot g with
        | .loaded w _ _ => w
        | _ => 0
      let inked : Prop :=
        ∃ k g w h bitmap row, glyphs[k]? = some g ∧ slot g = .loaded w h bitmap ∧
          let left := t.x + start + ((glyphs.take k).map fun before => width before + style.tracking).sum
          let top := t.y + style.textTop
          left ≤ x ∧ (x : Int) < left + w ∧ top ≤ n ∧
          bitmap[((n : Int) - top).toNat]? = some row ∧ row[((x : Int) - left).toNat]? = some true
      (inked → drawn = blend (source style.ink) filled t.opacity.toNat) ∧ (¬ inked → drawn = filled)

/-! ### What the snapshot's tables hold -/

/-- The status and the price cache entry of each item of a bank in a column. No record: MISSING, and no entry (R60, R65). A
SIMPLE item is offered where its position is present (R60), a COMBO where every component is a SIMPLE item that is (R61); an
offered item is available where its own and every component's stock entry is not SOLD_OUT (R62). A not-offered item has an
entry without a value (R66). The value of an offered item: the base price times the column factor over 1000, rounded half up
(R68), or for a COMBO the sum of quantity times adjusted price less the discount, not below 0 (R69); then the tax (R70) and
the step (R71, R72; PricesRoundAndPrintAsTheFormatSays), in that order (R67); up to 999999 with its glyph sequence, above it
in overflow with none (R73). -/
def Obligations.ItemStatusesAndPricesFollowTheirRules : Prop :=
  ∀ (b : Bank) (column id : Nat) (stock : List Stock),
    let status := tget (itemStatuses b column stock) id
    let entry := tget (priceCache b column) id
    let price (item v : Nat) : Prop :=
      ∃ prices photo, tget b.items item = some ⟨.simple prices, photo⟩ ∧ columnGet prices column = some v
    let inStock (item : Nat) : Prop := stock[item]? ≠ some .soldOut
    let adjusted (p : Nat) : Nat := (p * columnGet b.factors column + 500) / 1000
    let taxed (v : Nat) : Nat := if b.format.taxInclusive = true then v + (v * b.format.taxRate + 5000) / 10000 else v
    let priced (v : Nat) : Prop :=
      let result := roundStep b.format (taxed v)
      entry = some (if result ≤ 999999 then .priced result (glyphSequence b.format result) else .overflow result)
    let notOffered : Prop := status = some ⟨false, false⟩ ∧ entry = some .notOffered
    (tget b.items id = none → status = none ∧ entry = none) ∧
    (∀ prices photo, tget b.items id = some ⟨.simple prices, photo⟩ →
      (columnGet prices column = none → notOffered) ∧
      ∀ p, columnGet prices column = some p →
        (∃ available, status = some ⟨true, available⟩ ∧ (available = true ↔ inStock id)) ∧ priced (adjusted p)) ∧
    ∀ components discount photo, tget b.items id = some ⟨.combo components discount, photo⟩ →
      ((∃ c ∈ components, ∀ p, ¬ price c.item p) → notOffered) ∧
      ∀ prices : List Nat, List.Forall₂ (fun c p => price c.item p) components prices →
        (∃ available, status = some ⟨true, available⟩ ∧
          (available = true ↔ inStock id ∧ ∀ c ∈ components, inStock c.item)) ∧
        priced ((List.zipWith (fun c p => c.quantity * adjusted p) components prices).sum - discount)

/-- The text plan of each PRICE tile of a page, by the first test that applies (R78): NO_ITEM where the item is MISSING,
NO_PRICE where it is not offered, OVERFLOW where its value is, NO_GLYPH where a glyph of its sequence is not LOADED in the
tile's font (R79), TOO_WIDE where the sum of the glyphs' widths and the tracking between them exceeds the tile's width less
twice its pad (R80), and otherwise TEXT, with its start column by the alignment (R81). Other tiles, and tiles of other
pages, get none. That a bank holds one record for each tile is in StepKeepsStoresInForm. -/
def Obligations.TextPlansFollowTheOrderOfTests : Prop :=
  ∀ (b : Bank) (page id : Nat) (cache : Table PriceEntry) (slots : List GlyphSlot), sortedKeys b.tiles = true → id < 48 →
    let plan := tget (textPlans b page cache (slots.map slotLoaded) slots) id
    let tile := tget b.tiles (page * 48 + id)
    ((∀ t style, tile = some t → t.body ≠ .price style) → plan = none) ∧
    ∀ t style, tile = some t → t.body = .price style →
      let entry (e : PriceEntry) : Prop := ∃ item, t.item = some item ∧ tget cache item = some e
      let hasWidth (g w : Nat) : Prop := ∃ h bitmap, slots[style.font * 12 + g]? = some (.loaded w h bitmap)
      ((∀ e, ¬ entry e) → plan = some .noItem) ∧
      (entry .notOffered → plan = some .noPrice) ∧
      (∀ v, entry (.overflow v) → plan = some .overflow) ∧
      ∀ v glyphs, entry (.priced v glyphs) →
        ((∃ g ∈ glyphs, ∀ w, ¬ hasWidth g w) → plan = some .noGlyph) ∧
        ∀ widths : List Nat, List.Forall₂ hasWidth glyphs widths →
          let width := widths.sum + style.tracking * (glyphs.length - 1)
          (t.w < width + 2 * style.pad.toNat → plan = some .tooWide) ∧
          (width + 2 * style.pad.toNat ≤ t.w →
            ∃ start, plan = some (.text start width) ∧
              (style.align = .left → start = style.pad.toNat) ∧
              (style.align = .right → start + width + style.pad.toNat = t.w) ∧
              (style.align = .center → start = (t.w - width) / 2))

/-- The frame tile list (R117): one entry for each tile of the snapshot's page and no other, in ascending z and tile id
(R14). Each entry has the columns and lines of its rect within the screen (R121); shown and dimmed by its show-when, its
treatment and the availability of its item, no item or a MISSING one counting as available (R118); blink visible by the
frame number (R119); and its content with the flag it calls for (R120, R136): MISSING_REF for a MISSING item or a photo with
no record, NOT_READY for an OPEN photo, OVERFLOW and MISSING_GLYPH as the text plan says; every other flag clear. That a
bank holds one record for each tile is in StepKeepsStoresInForm. -/
def Obligations.FrameTilesFollowTheirRecords : Prop :=
  ∀ snap : Snapshot, sortedKeys snap.bank.tiles = true →
    List.Pairwise (fun a b => a.tile.z.toNat < b.tile.z.toNat ∨ (a.tile.z = b.tile.z ∧ a.id < b.id)) (frameTiles snap) ∧
    (∀ id t, (∃ e ∈ frameTiles snap, e.id = id ∧ e.tile = t) ↔
      id < 48 ∧ tget snap.bank.tiles (snap.page * 48 + id) = some t) ∧
    ∀ e ∈ frameTiles snap,
      let t := e.tile
      let missing : Prop := ∃ item, t.item = some item ∧ tget snap.status item = none
      let unavailable : Prop :=
        ∃ item status, t.item = some item ∧ tget snap.status item = some status ∧ status.available = false
      let selected (photo : Nat) : Prop :=
        ∃ own ox oy, t.body = .photo own ox oy ∧
          (own = some photo ∨
            (own = none ∧ ∃ item r, t.item = some item ∧ tget snap.bank.items item = some r ∧ r.photo = some photo))
      let plan := tget snap.plans e.id
      let draws (content : Content) (missingRef notReady overflow missingGlyph : Bool) : Prop :=
        e.content = content ∧ e.flags = ⟨missingRef, notReady, overflow, missingGlyph, false⟩
      (∀ x : Nat, (e.clip.x0 ≤ x ∧ x < e.clip.x1) ↔ (x < snap.settings.vw ∧ t.x ≤ x ∧ (x : Int) < t.x + t.w)) ∧
      (∀ y : Nat, (e.clip.y0 ≤ y ∧ y < e.clip.y1) ↔ (y < snap.settings.vh ∧ t.y ≤ y ∧ (y : Int) < t.y + t.h)) ∧
      e.clip = clipRect t snap.settings.vw snap.settings.vh ∧
      (e.shown = true ↔
        (¬ unavailable ∧ t.showWhen ≠ .soldOut) ∨ (unavailable ∧ t.showWhen ≠ .available ∧ t.treatment ≠ .hide)) ∧
      (e.dimmed = true ↔ unavailable ∧ t.showWhen ≠ .available ∧ t.treatment = .dim) ∧
      (e.blinkVisible = true ↔ t.blink = 0 ∨ snap.number.toNat / t.blink.toNat % 2 = 0) ∧
      (missing → draws .none true false false false) ∧
      (¬ missing →
        (t.body = .panel → draws .none false false false false) ∧
        (∀ style, t.body = .price style →
          (∀ start width, plan = some (.text start width) → draws (.text start) false false false false) ∧
          (plan = some .overflow ∨ plan = some .tooWide → draws .none false false true false) ∧
          (plan = some .noGlyph → draws .none false false false true) ∧
          (plan = none ∨ plan = some .noItem ∨ plan = some .noPrice → draws .none false false false false)) ∧
        (∀ own ox oy, t.body = .photo own ox oy → (∀ photo, ¬ selected photo) → draws .none false false false false) ∧
        ∀ photo, selected photo →
          (tget snap.photos photo = none → draws .none true false false false) ∧
          (tget snap.photos photo = some .opened → draws .none false true false false) ∧
          (tget snap.photos photo = some .ready → draws (.photo photo) false false false false))

/-! ### What the audit's checks test -/

/-- Checks 1, 2 and 5, on the staged bank and the photo directory. REFERENCES (R34): tiles first, by page and tile id, each
its item and then its own photo; then items by id, each component of a COMBO in list order, which must be SIMPLE, and then
the default photo; the first name that does not resolve is the failure. PHOTOS_READY (R35): the first photo named, in the
same order, that is not READY, one with no record among them. SCHEDULE (R38): no entry, or the first entry whose page holds
no staged tile, with its position. -/
def Obligations.AuditChecksNamesPhotosAndSchedule : Prop :=
  ∀ s : State,
    let b := s.tables.staged
    let record (photo : Nat) : Prop := (tget s.photos.directory photo).isSome = true
    let ready (photo : Nat) : Prop := ∃ r, tget s.photos.directory photo = some r ∧ r.state = .ready
    let resolves (item : Nat) : Prop := (tget b.items item).isSome = true
    let simple (item : Nat) : Prop := ∃ prices photo, tget b.items item = some ⟨.simple prices, photo⟩
    let own (t : TileRec) (photo : Nat) : Prop := ∃ ox oy, t.body = .photo (some photo) ox oy
    let components (r : ItemRec) : List Component :=
      match r.body with
      | .combo components _ => components
      | .simple _ => []
    let tileGood (t : TileRec) : Prop := (∀ i, t.item = some i → resolves i) ∧ ∀ p, own t p → record p
    let itemGood (r : ItemRec) : Prop := (∀ c ∈ components r, simple c.item) ∧ ∀ p, r.photo = some p → record p
    let tileReady (t : TileRec) : Prop := ∀ p, own t p → ready p
    let itemReady (r : ItemRec) : Prop := ∀ p, r.photo = some p → ready p
    let onPage (page : Nat) : Prop := ∃ id t, id < 48 ∧ tget b.tiles (page * 48 + id) = some t
    (runCheck s 1 = none ↔ (∀ e ∈ b.tiles, tileGood e.2) ∧ ∀ e ∈ b.items, itemGood e.2) ∧
    (∀ (before after : Table TileRec) (key : Nat) (t : TileRec),
      b.tiles = before ++ (key, t) :: after → (∀ e ∈ before, tileGood e.2) →
      (∀ i, t.item = some i → ¬ resolves i → runCheck s 1 = some (.tile (key / 48) (key % 48) i)) ∧
      ∀ p, (∀ i, t.item = some i → resolves i) → own t p → ¬ record p →
        runCheck s 1 = some (.tile (key / 48) (key % 48) p)) ∧
    (∀ (before after : Table ItemRec) (id : Nat) (r : ItemRec),
      (∀ e ∈ b.tiles, tileGood e.2) → b.items = before ++ (id, r) :: after → (∀ e ∈ before, itemGood e.2) →
      (∀ (earlier later : List Component) (c : Component),
        components r = earlier ++ c :: later → (∀ e ∈ earlier, simple e.item) → ¬ simple c.item →
        runCheck s 1 = some (.item id c.item)) ∧
      ∀ p, (∀ c ∈ components r, simple c.item) → r.photo = some p → ¬ record p →
        runCheck s 1 = some (.item id p)) ∧
    (runCheck s 2 = none ↔ (∀ e ∈ b.tiles, tileReady e.2) ∧ ∀ e ∈ b.items, itemReady e.2) ∧
    (∀ (before after : Table TileRec) (key : Nat) (t : TileRec) (p : Nat),
      b.tiles = before ++ (key, t) :: after → (∀ e ∈ before, tileReady e.2) → own t p → ¬ ready p →
      runCheck s 2 = some (.photo p)) ∧
    (∀ (before after : Table ItemRec) (id : Nat) (r : ItemRec) (p : Nat),
      (∀ e ∈ b.tiles, tileReady e.2) → b.items = before ++ (id, r) :: after →
      (∀ e ∈ before, itemReady e.2) → r.photo = some p → ¬ ready p → runCheck s 2 = some (.photo p)) ∧
    (runCheck s 5 = none ↔ b.schedule ≠ [] ∧ ∀ e ∈ b.schedule, onPage e.page) ∧
    (b.schedule = [] → runCheck s 5 = some .nothing) ∧
    ∀ (before after : List SchedEntry) (e : SchedEntry),
      b.schedule = before ++ e :: after → (∀ x ∈ before, onPage x.page) → ¬ onPage e.page →
      runCheck s 5 = some (.page e.page before.length)

/-- Checks 3 and 4, on the staged bank. PRICE_FIT (R36): the PRICE tiles by page and tile id, each in the columns that
staged entries pair with its page, ascending, or in column 0 alone where none names the page; a column fails where the
item's price there is in overflow, a glyph of it is not LOADED in the tile's font, or the text is wider than the tile less
twice the pad; a MISSING or not-offered item passes; the first such tile and column is the failure. LINE_BUDGET (R37): the
pages in order and on each the lines of the viewport of the frame in progress; the sum over the page's PHOTO tiles, each
taken as shown, of the screen columns it asks for of its own photo or its item's staged default photo; the first page and
line whose sum exceeds 3072 is the failure. That a schedule's columns lie in 0–3 is the invariant StepKeepsRecordsInRange. -/
def Obligations.AuditChecksPricesAndLineDemands : Prop :=
  ∀ (s : State) (f : Frame), s.frame = some f → ScheduleInRange s.tables.staged.schedule →
    let b := s.tables.staged
    let tested (page column : Nat) : Prop :=
      (∃ e ∈ b.schedule, e.page = page ∧ e.column = column) ∨ (column = 0 ∧ ∀ e ∈ b.schedule, e.page ≠ page)
    let slot (font g : Nat) : GlyphSlot := s.glyphs.slots.getD (font * 12 + g) .empty
    let width (font g : Nat) : Nat :=
      match slot font g with
      | .loaded w _ _ => w
      | _ => 0
    let misfits (t : TileRec) (column : Nat) : Prop :=
      ∃ style item entry, t.body = .price style ∧ t.item = some item ∧ tget (priceCache b column) item = some entry ∧
        ((∃ v, entry = .overflow v) ∨
          ∃ v glyphs, entry = .priced v glyphs ∧
            ((∃ g ∈ glyphs, ∀ w h bitmap, slot style.font g ≠ .loaded w h bitmap) ∨
              t.w < (glyphs.map (width style.font)).sum + style.tracking * (glyphs.length - 1) + 2 * style.pad.toNat))
    let fits (e : Nat × TileRec) : Prop := ∀ column, tested (e.1 / 48) column → ¬ misfits e.2 column
    let settings := f.snap.settings
    let asked (n : Nat) (t : TileRec) : Nat :=
      match t.body with
      | .photo own ox oy =>
        let photo :=
          match own with
          | some p => some p
          | none => t.item.bind fun item => (tget b.items item).bind fun r => r.photo
        match photo.bind (tget s.photos.directory) with
        | some r => pixelsAsked t ox oy r settings.vw settings.vh n
        | none => 0
      | _ => 0
    let total (page n : Nat) : Nat := ((b.tiles.filter fun e => e.1 / 48 = page).map fun e => asked n e.2).sum
    (runCheck s 3 = none ↔ ∀ e ∈ b.tiles, fits e) ∧
    (∀ (before after : Table TileRec) (key : Nat) (t : TileRec) (column : Nat),
      b.tiles = before ++ (key, t) :: after → (∀ e ∈ before, fits e) → tested (key / 48) column → misfits t column →
      (∀ earlier, earlier < column → tested (key / 48) earlier → ¬ misfits t earlier) →
      runCheck s 3 = some (.tile (key / 48) (key % 48) column)) ∧
    (runCheck s 4 = none ↔ ∀ page n, page < 8 → n < settings.vh → total page n ≤ 3072) ∧
    ∀ page n, page < 8 → n < settings.vh → 3072 < total page n →
      (∀ p m, p < 8 → m < settings.vh → p < page ∨ (p = page ∧ m < n) → total p m ≤ 3072) →
      runCheck s 4 = some (.page page n)

/-- The grants of a line, taken first fit in draw order: every tile of the list stands in its place, granted or degraded; a
tile is degraded exactly where what the tiles granted before it ask, and its own demand, together exceed the budget; and
what the granted tiles ask and the remainder make the budget in all, which is 3072 for each line (R129, R130). What a tile
asks: the screen columns that its rect, the screen and its placed photo share, where it is active with content PHOTO, and
nothing otherwise (R128). -/
def Obligations.LineGrantsStayWithinTheBudget : Prop :=
  (∀ (directory : Table PhotoRec) (n budget : Nat) (l : List TileEntry),
    let g := grantTiles directory n budget l
    let granted (es : List (TileEntry × Bool)) : Nat :=
      ((es.filter fun e => !e.2).map fun e => demandOn directory e.1 n).sum
    g.1.map Prod.fst = l ∧ granted g.1 + g.2 = budget ∧
    ∀ pre e degraded post, g.1 = pre ++ (e, degraded) :: post →
      (degraded = true ↔ budget < granted pre + demandOn directory e n)) ∧
  (∀ (s : State) (f : Frame) (n : Nat), lineGrants s f n = grantTiles s.photos.directory n 3072 f.tiles) ∧
  ∀ (directory : Table PhotoRec) (e : TileEntry) (n vw vh : Nat), e.clip = clipRect e.tile vw vh →
    let visible : Prop := e.shown = true ∧ e.blinkVisible = true
    (¬ visible ∨ (∀ id, e.content ≠ .photo id) → demandOn directory e n = 0) ∧
    ∀ id own ox oy, visible → e.content = .photo id → e.tile.body = .photo own ox oy →
      (tget directory id = none → demandOn directory e n = 0) ∧
      ∀ r, tget directory id = some r → demandOn directory e n = pixelsAsked e.tile ox oy r vw vh n
end

