-- ==== Sys2Proof/Laws/State.lean ====
section
/-! SUPPORT. One lemma per field per named update of State: which fields an update leaves, and what it sets. -/

namespace Sys2Proof.Machine

variable (s : State)

/-! ### State.raise -/

@[simp] theorem State.raise_resetn (e : Event) : (s.raise e).resetn = s.resetn := rfl
@[simp] theorem State.raise_pins (e : Event) : (s.raise e).pins = s.pins := rfl
@[simp] theorem State.raise_receiver (e : Event) : (s.raise e).receiver = s.receiver := rfl
@[simp] theorem State.raise_intake (e : Event) : (s.raise e).intake = s.intake := rfl
@[simp] theorem State.raise_tables (e : Event) : (s.raise e).tables = s.tables := rfl
@[simp] theorem State.raise_audit (e : Event) : (s.raise e).audit = s.audit := rfl
@[simp] theorem State.raise_timing (e : Event) : (s.raise e).timing = s.timing := rfl
@[simp] theorem State.raise_context (e : Event) : (s.raise e).context = s.context := rfl
@[simp] theorem State.raise_frame (e : Event) : (s.raise e).frame = s.frame := rfl
@[simp] theorem State.raise_photos (e : Event) : (s.raise e).photos = s.photos := rfl
@[simp] theorem State.raise_glyphs (e : Event) : (s.raise e).glyphs = s.glyphs := rfl
@[simp] theorem State.raise_capture (e : Event) : (s.raise e).capture = s.capture := rfl
@[simp] theorem State.raise_kept (e : Event) : (s.raise e).kept = s.kept := rfl
@[simp] theorem State.raise_output (e : Event) : (s.raise e).output = s.output := rfl
@[simp] theorem State.raise_out (e : Event) : (s.raise e).out = s.out := rfl
@[simp] theorem State.raise_pending (e : Event) : (s.raise e).pending = s.pending := rfl

/-! ### State.raiseIf -/

@[simp] theorem State.raiseIf_resetn (c : Bool) (e : Event) : (s.raiseIf c e).resetn = s.resetn := by cases c <;> rfl
@[simp] theorem State.raiseIf_pins (c : Bool) (e : Event) : (s.raiseIf c e).pins = s.pins := by cases c <;> rfl
@[simp] theorem State.raiseIf_receiver (c : Bool) (e : Event) : (s.raiseIf c e).receiver = s.receiver := by cases c <;> rfl
@[simp] theorem State.raiseIf_intake (c : Bool) (e : Event) : (s.raiseIf c e).intake = s.intake := by cases c <;> rfl
@[simp] theorem State.raiseIf_tables (c : Bool) (e : Event) : (s.raiseIf c e).tables = s.tables := by cases c <;> rfl
@[simp] theorem State.raiseIf_audit (c : Bool) (e : Event) : (s.raiseIf c e).audit = s.audit := by cases c <;> rfl
@[simp] theorem State.raiseIf_timing (c : Bool) (e : Event) : (s.raiseIf c e).timing = s.timing := by cases c <;> rfl
@[simp] theorem State.raiseIf_context (c : Bool) (e : Event) : (s.raiseIf c e).context = s.context := by cases c <;> rfl
@[simp] theorem State.raiseIf_frame (c : Bool) (e : Event) : (s.raiseIf c e).frame = s.frame := by cases c <;> rfl
@[simp] theorem State.raiseIf_photos (c : Bool) (e : Event) : (s.raiseIf c e).photos = s.photos := by cases c <;> rfl
@[simp] theorem State.raiseIf_glyphs (c : Bool) (e : Event) : (s.raiseIf c e).glyphs = s.glyphs := by cases c <;> rfl
@[simp] theorem State.raiseIf_capture (c : Bool) (e : Event) : (s.raiseIf c e).capture = s.capture := by cases c <;> rfl
@[simp] theorem State.raiseIf_kept (c : Bool) (e : Event) : (s.raiseIf c e).kept = s.kept := by cases c <;> rfl
@[simp] theorem State.raiseIf_output (c : Bool) (e : Event) : (s.raiseIf c e).output = s.output := by cases c <;> rfl
@[simp] theorem State.raiseIf_out (c : Bool) (e : Event) : (s.raiseIf c e).out = s.out := by cases c <;> rfl
@[simp] theorem State.raiseIf_pending (c : Bool) (e : Event) : (s.raiseIf c e).pending = s.pending := by cases c <;> rfl

/-! ### State.begin -/

@[simp] theorem State.begin_resetn : (s.begin).resetn = s.resetn := rfl
@[simp] theorem State.begin_pins : (s.begin).pins = s.pins := rfl
@[simp] theorem State.begin_receiver : (s.begin).receiver = s.receiver := rfl
@[simp] theorem State.begin_intake : (s.begin).intake = s.intake := rfl
@[simp] theorem State.begin_lane : (s.begin).lane = s.lane := rfl
@[simp] theorem State.begin_tables : (s.begin).tables = s.tables := rfl
@[simp] theorem State.begin_audit : (s.begin).audit = s.audit := rfl
@[simp] theorem State.begin_timing : (s.begin).timing = s.timing := rfl
@[simp] theorem State.begin_context : (s.begin).context = s.context := rfl
@[simp] theorem State.begin_frame : (s.begin).frame = s.frame := rfl
@[simp] theorem State.begin_photos : (s.begin).photos = s.photos := rfl
@[simp] theorem State.begin_glyphs : (s.begin).glyphs = s.glyphs := rfl
@[simp] theorem State.begin_capture : (s.begin).capture = s.capture := rfl
@[simp] theorem State.begin_kept : (s.begin).kept = s.kept := rfl
@[simp] theorem State.begin_output : (s.begin).output = s.output := rfl
@[simp] theorem State.begin_pending : (s.begin).pending = s.pending := rfl

/-! ### State.latch -/

@[simp] theorem State.latch_resetn (p : Pins) : (s.latch p).resetn = s.resetn := rfl
@[simp] theorem State.latch_receiver (p : Pins) : (s.latch p).receiver = s.receiver := rfl
@[simp] theorem State.latch_intake (p : Pins) : (s.latch p).intake = s.intake := rfl
@[simp] theorem State.latch_lane (p : Pins) : (s.latch p).lane = s.lane := rfl
@[simp] theorem State.latch_tables (p : Pins) : (s.latch p).tables = s.tables := rfl
@[simp] theorem State.latch_audit (p : Pins) : (s.latch p).audit = s.audit := rfl
@[simp] theorem State.latch_timing (p : Pins) : (s.latch p).timing = s.timing := rfl
@[simp] theorem State.latch_context (p : Pins) : (s.latch p).context = s.context := rfl
@[simp] theorem State.latch_frame (p : Pins) : (s.latch p).frame = s.frame := rfl
@[simp] theorem State.latch_photos (p : Pins) : (s.latch p).photos = s.photos := rfl
@[simp] theorem State.latch_glyphs (p : Pins) : (s.latch p).glyphs = s.glyphs := rfl
@[simp] theorem State.latch_capture (p : Pins) : (s.latch p).capture = s.capture := rfl
@[simp] theorem State.latch_kept (p : Pins) : (s.latch p).kept = s.kept := rfl
@[simp] theorem State.latch_output (p : Pins) : (s.latch p).output = s.output := rfl
@[simp] theorem State.latch_out (p : Pins) : (s.latch p).out = s.out := rfl
@[simp] theorem State.latch_pending (p : Pins) : (s.latch p).pending = s.pending := rfl

/-! ### State.repeatThrough -/

@[simp] theorem State.repeatThrough_resetn (x : StreamSymbol) : (s.repeatThrough x).resetn = s.resetn := rfl
@[simp] theorem State.repeatThrough_pins (x : StreamSymbol) : (s.repeatThrough x).pins = s.pins := rfl
@[simp] theorem State.repeatThrough_receiver (x : StreamSymbol) : (s.repeatThrough x).receiver = s.receiver := rfl
@[simp] theorem State.repeatThrough_intake (x : StreamSymbol) : (s.repeatThrough x).intake = s.intake := rfl
@[simp] theorem State.repeatThrough_lane (x : StreamSymbol) : (s.repeatThrough x).lane = s.lane := rfl
@[simp] theorem State.repeatThrough_tables (x : StreamSymbol) : (s.repeatThrough x).tables = s.tables := rfl
@[simp] theorem State.repeatThrough_audit (x : StreamSymbol) : (s.repeatThrough x).audit = s.audit := rfl
@[simp] theorem State.repeatThrough_timing (x : StreamSymbol) : (s.repeatThrough x).timing = s.timing := rfl
@[simp] theorem State.repeatThrough_context (x : StreamSymbol) : (s.repeatThrough x).context = s.context := rfl
@[simp] theorem State.repeatThrough_frame (x : StreamSymbol) : (s.repeatThrough x).frame = s.frame := rfl
@[simp] theorem State.repeatThrough_photos (x : StreamSymbol) : (s.repeatThrough x).photos = s.photos := rfl
@[simp] theorem State.repeatThrough_glyphs (x : StreamSymbol) : (s.repeatThrough x).glyphs = s.glyphs := rfl
@[simp] theorem State.repeatThrough_capture (x : StreamSymbol) : (s.repeatThrough x).capture = s.capture := rfl
@[simp] theorem State.repeatThrough_kept (x : StreamSymbol) : (s.repeatThrough x).kept = s.kept := rfl
@[simp] theorem State.repeatThrough_output (x : StreamSymbol) : (s.repeatThrough x).output = s.output := rfl
@[simp] theorem State.repeatThrough_pending (x : StreamSymbol) : (s.repeatThrough x).pending = s.pending := rfl

/-! ### State.repeatCut -/

@[simp] theorem State.repeatCut_resetn (c : Option (List Byte)) : (s.repeatCut c).resetn = s.resetn := by cases c <;> rfl
@[simp] theorem State.repeatCut_pins (c : Option (List Byte)) : (s.repeatCut c).pins = s.pins := by cases c <;> rfl
@[simp] theorem State.repeatCut_receiver (c : Option (List Byte)) : (s.repeatCut c).receiver = s.receiver := by cases c <;> rfl
@[simp] theorem State.repeatCut_intake (c : Option (List Byte)) : (s.repeatCut c).intake = s.intake := by cases c <;> rfl
@[simp] theorem State.repeatCut_lane (c : Option (List Byte)) : (s.repeatCut c).lane = s.lane := by cases c <;> rfl
@[simp] theorem State.repeatCut_tables (c : Option (List Byte)) : (s.repeatCut c).tables = s.tables := by cases c <;> rfl
@[simp] theorem State.repeatCut_audit (c : Option (List Byte)) : (s.repeatCut c).audit = s.audit := by cases c <;> rfl
@[simp] theorem State.repeatCut_timing (c : Option (List Byte)) : (s.repeatCut c).timing = s.timing := by cases c <;> rfl
@[simp] theorem State.repeatCut_context (c : Option (List Byte)) : (s.repeatCut c).context = s.context := by cases c <;> rfl
@[simp] theorem State.repeatCut_frame (c : Option (List Byte)) : (s.repeatCut c).frame = s.frame := by cases c <;> rfl
@[simp] theorem State.repeatCut_photos (c : Option (List Byte)) : (s.repeatCut c).photos = s.photos := by cases c <;> rfl
@[simp] theorem State.repeatCut_glyphs (c : Option (List Byte)) : (s.repeatCut c).glyphs = s.glyphs := by cases c <;> rfl
@[simp] theorem State.repeatCut_capture (c : Option (List Byte)) : (s.repeatCut c).capture = s.capture := by cases c <;> rfl
@[simp] theorem State.repeatCut_kept (c : Option (List Byte)) : (s.repeatCut c).kept = s.kept := by cases c <;> rfl
@[simp] theorem State.repeatCut_output (c : Option (List Byte)) : (s.repeatCut c).output = s.output := by cases c <;> rfl
@[simp] theorem State.repeatCut_pending (c : Option (List Byte)) : (s.repeatCut c).pending = s.pending := by cases c <;> rfl

/-! ### State.drive -/

@[simp] theorem State.drive_resetn (x : PanelSymbol) : (s.drive x).resetn = s.resetn := by unfold State.drive; split <;> rfl
@[simp] theorem State.drive_pins (x : PanelSymbol) : (s.drive x).pins = s.pins := by unfold State.drive; split <;> rfl
@[simp] theorem State.drive_receiver (x : PanelSymbol) : (s.drive x).receiver = s.receiver := by unfold State.drive; split <;> rfl
@[simp] theorem State.drive_intake (x : PanelSymbol) : (s.drive x).intake = s.intake := by unfold State.drive; split <;> rfl
@[simp] theorem State.drive_lane (x : PanelSymbol) : (s.drive x).lane = s.lane := by unfold State.drive; split <;> rfl
@[simp] theorem State.drive_tables (x : PanelSymbol) : (s.drive x).tables = s.tables := by unfold State.drive; split <;> rfl
@[simp] theorem State.drive_audit (x : PanelSymbol) : (s.drive x).audit = s.audit := by unfold State.drive; split <;> rfl
@[simp] theorem State.drive_timing (x : PanelSymbol) : (s.drive x).timing = s.timing := by unfold State.drive; split <;> rfl
@[simp] theorem State.drive_context (x : PanelSymbol) : (s.drive x).context = s.context := by unfold State.drive; split <;> rfl
@[simp] theorem State.drive_frame (x : PanelSymbol) : (s.drive x).frame = s.frame := by unfold State.drive; split <;> rfl
@[simp] theorem State.drive_photos (x : PanelSymbol) : (s.drive x).photos = s.photos := by unfold State.drive; split <;> rfl
@[simp] theorem State.drive_glyphs (x : PanelSymbol) : (s.drive x).glyphs = s.glyphs := by unfold State.drive; split <;> rfl
@[simp] theorem State.drive_capture (x : PanelSymbol) : (s.drive x).capture = s.capture := by unfold State.drive; split <;> rfl
@[simp] theorem State.drive_kept (x : PanelSymbol) : (s.drive x).kept = s.kept := by unfold State.drive; split <;> rfl
@[simp] theorem State.drive_output (x : PanelSymbol) : (s.drive x).output = s.output := by unfold State.drive; split <;> rfl
@[simp] theorem State.drive_pending (x : PanelSymbol) : (s.drive x).pending = s.pending := by unfold State.drive; split <;> rfl

/-! ### State.recount -/

@[simp] theorem State.recount_resetn (b : Bank) : (s.recount b).resetn = s.resetn := rfl
@[simp] theorem State.recount_pins (b : Bank) : (s.recount b).pins = s.pins := rfl
@[simp] theorem State.recount_receiver (b : Bank) : (s.recount b).receiver = s.receiver := rfl
@[simp] theorem State.recount_intake (b : Bank) : (s.recount b).intake = s.intake := rfl
@[simp] theorem State.recount_lane (b : Bank) : (s.recount b).lane = s.lane := rfl
@[simp] theorem State.recount_tables (b : Bank) : (s.recount b).tables = s.tables := rfl
@[simp] theorem State.recount_audit (b : Bank) : (s.recount b).audit = s.audit := rfl
@[simp] theorem State.recount_timing (b : Bank) : (s.recount b).timing = s.timing := rfl
@[simp] theorem State.recount_context (b : Bank) : (s.recount b).context = s.context := rfl
@[simp] theorem State.recount_frame (b : Bank) : (s.recount b).frame = s.frame := rfl
@[simp] theorem State.recount_capture (b : Bank) : (s.recount b).capture = s.capture := rfl
@[simp] theorem State.recount_kept (b : Bank) : (s.recount b).kept = s.kept := rfl
@[simp] theorem State.recount_output (b : Bank) : (s.recount b).output = s.output := rfl
@[simp] theorem State.recount_out (b : Bank) : (s.recount b).out = s.out := rfl
@[simp] theorem State.recount_pending (b : Bank) : (s.recount b).pending = s.pending := rfl

/-! ### State.setSlot -/

@[simp] theorem State.setSlot_resetn (font slot : Nat) (g : GlyphSlot) : (s.setSlot font slot g).resetn = s.resetn := rfl
@[simp] theorem State.setSlot_pins (font slot : Nat) (g : GlyphSlot) : (s.setSlot font slot g).pins = s.pins := rfl
@[simp] theorem State.setSlot_receiver (font slot : Nat) (g : GlyphSlot) : (s.setSlot font slot g).receiver = s.receiver := rfl
@[simp] theorem State.setSlot_intake (font slot : Nat) (g : GlyphSlot) : (s.setSlot font slot g).intake = s.intake := rfl
@[simp] theorem State.setSlot_lane (font slot : Nat) (g : GlyphSlot) : (s.setSlot font slot g).lane = s.lane := rfl
@[simp] theorem State.setSlot_tables (font slot : Nat) (g : GlyphSlot) : (s.setSlot font slot g).tables = s.tables := rfl
@[simp] theorem State.setSlot_audit (font slot : Nat) (g : GlyphSlot) : (s.setSlot font slot g).audit = s.audit := rfl
@[simp] theorem State.setSlot_timing (font slot : Nat) (g : GlyphSlot) : (s.setSlot font slot g).timing = s.timing := rfl
@[simp] theorem State.setSlot_context (font slot : Nat) (g : GlyphSlot) : (s.setSlot font slot g).context = s.context := rfl
@[simp] theorem State.setSlot_frame (font slot : Nat) (g : GlyphSlot) : (s.setSlot font slot g).frame = s.frame := rfl
@[simp] theorem State.setSlot_photos (font slot : Nat) (g : GlyphSlot) : (s.setSlot font slot g).photos = s.photos := rfl
@[simp] theorem State.setSlot_capture (font slot : Nat) (g : GlyphSlot) : (s.setSlot font slot g).capture = s.capture := rfl
@[simp] theorem State.setSlot_kept (font slot : Nat) (g : GlyphSlot) : (s.setSlot font slot g).kept = s.kept := rfl
@[simp] theorem State.setSlot_output (font slot : Nat) (g : GlyphSlot) : (s.setSlot font slot g).output = s.output := rfl
@[simp] theorem State.setSlot_out (font slot : Nat) (g : GlyphSlot) : (s.setSlot font slot g).out = s.out := rfl
@[simp] theorem State.setSlot_pending (font slot : Nat) (g : GlyphSlot) : (s.setSlot font slot g).pending = s.pending := rfl

/-! ### State.setPhoto -/

@[simp] theorem State.setPhoto_resetn (id : Nat) (r : PhotoRec) : (s.setPhoto id r).resetn = s.resetn := rfl
@[simp] theorem State.setPhoto_pins (id : Nat) (r : PhotoRec) : (s.setPhoto id r).pins = s.pins := rfl
@[simp] theorem State.setPhoto_receiver (id : Nat) (r : PhotoRec) : (s.setPhoto id r).receiver = s.receiver := rfl
@[simp] theorem State.setPhoto_intake (id : Nat) (r : PhotoRec) : (s.setPhoto id r).intake = s.intake := rfl
@[simp] theorem State.setPhoto_lane (id : Nat) (r : PhotoRec) : (s.setPhoto id r).lane = s.lane := rfl
@[simp] theorem State.setPhoto_tables (id : Nat) (r : PhotoRec) : (s.setPhoto id r).tables = s.tables := rfl
@[simp] theorem State.setPhoto_audit (id : Nat) (r : PhotoRec) : (s.setPhoto id r).audit = s.audit := rfl
@[simp] theorem State.setPhoto_timing (id : Nat) (r : PhotoRec) : (s.setPhoto id r).timing = s.timing := rfl
@[simp] theorem State.setPhoto_context (id : Nat) (r : PhotoRec) : (s.setPhoto id r).context = s.context := rfl
@[simp] theorem State.setPhoto_frame (id : Nat) (r : PhotoRec) : (s.setPhoto id r).frame = s.frame := rfl
@[simp] theorem State.setPhoto_glyphs (id : Nat) (r : PhotoRec) : (s.setPhoto id r).glyphs = s.glyphs := rfl
@[simp] theorem State.setPhoto_capture (id : Nat) (r : PhotoRec) : (s.setPhoto id r).capture = s.capture := rfl
@[simp] theorem State.setPhoto_kept (id : Nat) (r : PhotoRec) : (s.setPhoto id r).kept = s.kept := rfl
@[simp] theorem State.setPhoto_output (id : Nat) (r : PhotoRec) : (s.setPhoto id r).output = s.output := rfl
@[simp] theorem State.setPhoto_out (id : Nat) (r : PhotoRec) : (s.setPhoto id r).out = s.out := rfl
@[simp] theorem State.setPhoto_pending (id : Nat) (r : PhotoRec) : (s.setPhoto id r).pending = s.pending := rfl

/-! ### State.enter -/

@[simp] theorem State.enter_resetn (l : LinkState) (m : Nat) : (s.enter l m).resetn = s.resetn := rfl
@[simp] theorem State.enter_pins (l : LinkState) (m : Nat) : (s.enter l m).pins = s.pins := rfl
@[simp] theorem State.enter_receiver (l : LinkState) (m : Nat) : (s.enter l m).receiver = s.receiver := rfl
@[simp] theorem State.enter_intake (l : LinkState) (m : Nat) : (s.enter l m).intake = s.intake := rfl
@[simp] theorem State.enter_tables (l : LinkState) (m : Nat) : (s.enter l m).tables = s.tables := rfl
@[simp] theorem State.enter_audit (l : LinkState) (m : Nat) : (s.enter l m).audit = s.audit := rfl
@[simp] theorem State.enter_context (l : LinkState) (m : Nat) : (s.enter l m).context = s.context := rfl
@[simp] theorem State.enter_frame (l : LinkState) (m : Nat) : (s.enter l m).frame = s.frame := rfl
@[simp] theorem State.enter_photos (l : LinkState) (m : Nat) : (s.enter l m).photos = s.photos := rfl
@[simp] theorem State.enter_glyphs (l : LinkState) (m : Nat) : (s.enter l m).glyphs = s.glyphs := rfl
@[simp] theorem State.enter_capture (l : LinkState) (m : Nat) : (s.enter l m).capture = s.capture := rfl
@[simp] theorem State.enter_kept (l : LinkState) (m : Nat) : (s.enter l m).kept = s.kept := rfl
@[simp] theorem State.enter_output (l : LinkState) (m : Nat) : (s.enter l m).output = s.output := rfl
@[simp] theorem State.enter_out (l : LinkState) (m : Nat) : (s.enter l m).out = s.out := rfl
@[simp] theorem State.enter_pending (l : LinkState) (m : Nat) : (s.enter l m).pending = s.pending := rfl

/-! ### State.hold -/

@[simp] theorem State.hold_resetn (l : Bool) : (s.hold l).resetn = s.resetn := rfl
@[simp] theorem State.hold_pins (l : Bool) : (s.hold l).pins = s.pins := rfl
@[simp] theorem State.hold_receiver (l : Bool) : (s.hold l).receiver = s.receiver := rfl
@[simp] theorem State.hold_intake (l : Bool) : (s.hold l).intake = s.intake := rfl
@[simp] theorem State.hold_tables (l : Bool) : (s.hold l).tables = s.tables := rfl
@[simp] theorem State.hold_audit (l : Bool) : (s.hold l).audit = s.audit := rfl
@[simp] theorem State.hold_timing (l : Bool) : (s.hold l).timing = s.timing := rfl
@[simp] theorem State.hold_context (l : Bool) : (s.hold l).context = s.context := rfl
@[simp] theorem State.hold_frame (l : Bool) : (s.hold l).frame = s.frame := rfl
@[simp] theorem State.hold_photos (l : Bool) : (s.hold l).photos = s.photos := rfl
@[simp] theorem State.hold_glyphs (l : Bool) : (s.hold l).glyphs = s.glyphs := rfl
@[simp] theorem State.hold_capture (l : Bool) : (s.hold l).capture = s.capture := rfl
@[simp] theorem State.hold_kept (l : Bool) : (s.hold l).kept = s.kept := rfl
@[simp] theorem State.hold_output (l : Bool) : (s.hold l).output = s.output := rfl
@[simp] theorem State.hold_out (l : Bool) : (s.hold l).out = s.out := rfl
@[simp] theorem State.hold_pending (l : Bool) : (s.hold l).pending = s.pending := rfl

/-! ### What the updates set -/

@[simp] theorem State.raise_lane (e : Event) : (s.raise e).lane = { s.lane with events := s.lane.events.raise e } := rfl
@[simp] theorem State.begin_out : s.begin.out = noOutputs := rfl
@[simp] theorem State.latch_pins (p : Pins) : (s.latch p).pins = p := rfl
@[simp] theorem State.repeatThrough_out (x : StreamSymbol) :
    (s.repeatThrough x).out = { s.out with through := s.out.through ++ [x] } := rfl
@[simp] theorem State.setSlot_glyphs (font slot : Nat) (g : GlyphSlot) :
    (s.setSlot font slot g).glyphs = { s.glyphs with slots := s.glyphs.slots.set (slotIndex font slot) g } := rfl
@[simp] theorem State.setPhoto_photos (id : Nat) (r : PhotoRec) :
    (s.setPhoto id r).photos = { s.photos with directory := tput s.photos.directory id r } := rfl
@[simp] theorem State.enter_timing (l : LinkState) (m : Nat) :
    (s.enter l m).timing = { s.timing with link := l, good := 0, miss := m } := rfl
@[simp] theorem State.enter_lane (l : LinkState) (m : Nat) :
    (s.enter l m).lane = { s.lane with events := s.lane.events.raise .linkChanged } := rfl
@[simp] theorem State.hold_lane (l : Bool) : (s.hold l).lane = { s.lane with upstreamHold := l } := rfl
@[simp] theorem State.recount_photos (b : Bank) :
    (s.recount b).photos = { s.photos with refCounts := allReferences b } := rfl
@[simp] theorem State.recount_glyphs (b : Bank) :
    (s.recount b).glyphs = { s.glyphs with useCounts := allFontUses b } := rfl

/-- What raiseIf leaves of the lane: everything but the events. -/
theorem State.raiseIf_lane_queue (c : Bool) (e : Event) : (s.raiseIf c e).lane.queue = s.lane.queue := by
  cases c <;> rfl

end Sys2Proof.Machine
end

