-- ==== Sys2Proof/Laws/Tables.lean ====
section
/-! SUPPORT. What the sparse tables do: reading after placing and removing, the order of the keys, and what a replacement keeps. -/

namespace Sys2Proof.Machine

variable {α β : Type}

/-- A placed record reads back; every other key reads as before. -/
theorem tget_tput (t : Table α) (i j : Nat) (a : α) : tget (tput t i a) j = if j = i then some a else tget t j := by
  induction t with
  | nil => simp [tput, tget, eq_comm]
  | cons e t ih =>
    obtain ⟨k, v⟩ := e
    simp only [tput]
    split
    · simp only [tget, eq_comm]
    · split
      · next h =>
        subst h
        by_cases h : j = i
        · subst h; simp [tget]
        · have h' : ¬ i = j := fun h' => h h'.symm
          simp [tget, h, h']
      · simp only [tget, ih]
        by_cases h : k = j <;> by_cases h' : j = i <;> simp_all

/-- Reading a table cut down to the keys a test admits. -/
theorem tget_filter (t : Table α) (f : Nat → Bool) (j : Nat) :
    tget (t.filter fun e => f e.1) j = if f j then tget t j else none := by
  induction t with
  | nil => simp [tget]
  | cons e t ih =>
    obtain ⟨k, v⟩ := e
    by_cases h : f k = true
    · rw [List.filter_cons_of_pos (by simpa using h)]
      by_cases hk : k = j
      · subst hk; simp [tget, h]
      · simp [tget, hk, ih]
    · rw [List.filter_cons_of_neg (by simpa using h), ih]
      by_cases hk : k = j
      · subst hk; simp [h]
      · simp [tget, hk]

/-- A removed key reads as absent; every other key reads as before. -/
theorem tget_tdrop (t : Table α) (i j : Nat) : tget (tdrop t i) j = if j = i then none else tget t j := by
  rw [tdrop, tget_filter t fun k => k != i]
  by_cases h : j = i <;> simp [h]

/-- Reading a table whose records have been mapped. -/
theorem tget_map (t : Table α) (f : Nat → α → β) (j : Nat) :
    tget (t.map fun e => (e.1, f e.1 e.2)) j = (tget t j).map (f j) := by
  induction t with
  | nil => rfl
  | cons e t ih =>
    obtain ⟨k, v⟩ := e
    by_cases h : k = j
    · subst h; simp [tget]
    · simp [tget, h, ih]

/-- A record that reads back is an entry. -/
theorem mem_of_tget {t : Table α} {i : Nat} {a : α} (h : tget t i = some a) : (i, a) ∈ t := by
  induction t with
  | nil => cases h
  | cons e t ih =>
    obtain ⟨k, v⟩ := e
    simp only [tget] at h
    split at h
    · next hk => subst hk; cases h; simp
    · simp [ih h]

theorem sortedKeys_cons (k : Nat) (v : α) (t : Table α) :
    sortedKeys ((k, v) :: t) = true ↔ (∀ e ∈ t, k < e.1) ∧ sortedKeys t = true := by
  simp [sortedKeys]

/-- In a sorted table an entry reads back. -/
theorem tget_of_mem {t : Table α} (hs : sortedKeys t = true) {i : Nat} {a : α} (h : (i, a) ∈ t) : tget t i = some a := by
  induction t with
  | nil => cases h
  | cons e t ih =>
    obtain ⟨k, v⟩ := e
    obtain ⟨hk, hs⟩ := (sortedKeys_cons k v t).1 hs
    rcases List.mem_cons.1 h with he | he
    · cases he; simp [tget]
    · have := hk _ he
      simp only [tget, ih hs he, if_neg (show ¬ k = i by simp only at this; omega)]

/-- The entries of a table after a placement are the placed one and entries the table had. -/
theorem mem_tput {t : Table α} {i : Nat} {a : α} {e : Nat × α} (h : e ∈ tput t i a) : e = (i, a) ∨ e ∈ t := by
  induction t with
  | nil => simpa [tput] using h
  | cons x t ih =>
    obtain ⟨k, v⟩ := x
    simp only [tput] at h
    split at h
    · simpa using h
    · split at h
      · rcases List.mem_cons.1 h with h | h
        · exact .inl h
        · exact .inr (by simp [h])
      · rcases List.mem_cons.1 h with h | h
        · exact .inr (by simp [h])
        · rcases ih h with h | h
          · exact .inl h
          · exact .inr (by simp [h])

/-- A placement keeps the keys rising. -/
theorem sortedKeys_tput {t : Table α} (h : sortedKeys t = true) (i : Nat) (a : α) : sortedKeys (tput t i a) = true := by
  induction t with
  | nil => rfl
  | cons e t ih =>
    obtain ⟨k, v⟩ := e
    obtain ⟨hk, hs⟩ := (sortedKeys_cons k v t).1 h
    simp only [tput]
    split
    · next hi =>
      refine (sortedKeys_cons ..).2 ⟨?_, h⟩
      intro e he
      rcases List.mem_cons.1 he with rfl | he
      · exact hi
      · exact Nat.lt_trans hi (hk e he)
    · split
      · next hi => subst hi; exact (sortedKeys_cons ..).2 ⟨hk, hs⟩
      · refine (sortedKeys_cons ..).2 ⟨?_, ih hs⟩
        intro e he
        rcases mem_tput he with rfl | he
        · simp only; omega
        · exact hk e he

/-- A removal by any test keeps the keys rising. -/
theorem sortedKeys_filter {t : Table α} (h : sortedKeys t = true) (f : Nat × α → Bool) :
    sortedKeys (t.filter f) = true := by
  induction t with
  | nil => rfl
  | cons e t ih =>
    obtain ⟨k, v⟩ := e
    obtain ⟨hk, hs⟩ := (sortedKeys_cons k v t).1 h
    by_cases hf : f (k, v) = true
    · rw [List.filter_cons_of_pos hf]
      exact (sortedKeys_cons ..).2 ⟨fun e he => hk e (List.mem_filter.1 he).1, ih hs⟩
    · rw [List.filter_cons_of_neg hf]
      exact ih hs

theorem sortedKeys_tdrop {t : Table α} (h : sortedKeys t = true) (i : Nat) : sortedKeys (tdrop t i) = true :=
  sortedKeys_filter h _

/-- A table keeps its keys rising where its records are mapped. -/
theorem sortedKeys_map (t : Table α) (f : Nat × α → Nat × β) (hf : ∀ e, (f e).1 = e.1) :
    sortedKeys (t.map f) = sortedKeys t := by
  induction t with
  | nil => rfl
  | cons e t ih => simp [sortedKeys, ih, hf, Function.comp_def]

/-- Replacing a record leaves the table's keys and whatever the new record has in common with the old. -/
theorem tput_replace_map {t : Table α} (hs : sortedKeys t = true) {i : Nat} {a b : α} (h : tget t i = some a)
    (f : α → β) (hf : f b = f a) : (tput t i b).map (fun e => (e.1, f e.2)) = t.map fun e => (e.1, f e.2) := by
  induction t with
  | nil => cases h
  | cons e t ih =>
    obtain ⟨k, v⟩ := e
    obtain ⟨hk, hs⟩ := (sortedKeys_cons k v t).1 hs
    simp only [tget] at h
    simp only [tput]
    split at h
    · next hki =>
      subst hki
      cases h
      simp [hf]
    · next hki =>
      have := hk _ (mem_of_tget h)
      simp only at this
      rw [if_neg (by omega), if_neg (by omega)]
      simp [ih hs h]

end Sys2Proof.Machine
end

