-- ==== Sys2Proof/Laws/Memory.lean ====
section
/-! SUPPORT. Picture memory: reading after writing, and that every operation on it keeps its canonical form. -/

namespace Sys2Proof.Machine

/-- Memory right after reset has its canonical form. -/
theorem reset_memory_wf : Memory.wf State.reset.photos.memory = true := rfl

theorem Memory.wf_iff (m : List Host.Cell) :
    Memory.wf m = true ↔
      sortedKeys m = true ∧ ∀ c ∈ m, c.1 < Config.pictureBytes ∧ c.2 ≠ Config.unlistedByte := by
  simp [Memory.wf]

/-- A write of a byte keeps the canonical form. -/
theorem memWrite_wf {m : List Host.Cell} (h : Memory.wf m = true) (a : Nat) (b : Byte) :
    Memory.wf (memWrite m a b) = true := by
  rw [Memory.wf_iff] at *
  unfold memWrite
  split
  · next ha =>
    split
    · exact ⟨sortedKeys_tdrop h.1 a, fun c hc => h.2 c (List.mem_filter.1 hc).1⟩
    · next hb =>
      refine ⟨sortedKeys_tput h.1 a b, fun c hc => ?_⟩
      rcases mem_tput hc with rfl | hc
      · exact ⟨ha, hb⟩
      · exact h.2 c hc
  · exact h

theorem writePixel_wf {m : List Host.Cell} (h : Memory.wf m = true) (a : Nat) (c : Color) :
    Memory.wf (writePixel m a c) = true := memWrite_wf (memWrite_wf (memWrite_wf h _ _) _ _) _ _

theorem writePhotoRow_wf {m : List Host.Cell} (h : Memory.wf m = true) (r : PhotoRec) (py px : Nat) (cs : List Color) :
    Memory.wf (writePhotoRow r py px cs m) = true := by
  induction cs generalizing m px with
  | nil => exact h
  | cons c cs ih => exact ih (writePixel_wf h _ _) _

/-- A byte that is written reads back where the address exists; every other byte reads as before. -/
theorem memRead_memWrite (m : List Host.Cell) (a i : Nat) (b : Byte) :
    memRead (memWrite m a b) i = if i = a ∧ a < Config.pictureBytes then b else memRead m i := by
  unfold memRead memWrite
  split
  · next ha =>
    split
    · next hb =>
      rw [tget_tdrop]
      by_cases hi : i = a
      · rw [if_pos hi, if_pos ⟨hi, ha⟩, hb]; rfl
      · rw [if_neg hi, if_neg (fun h => hi h.1)]
    · rw [tget_tput]
      by_cases hi : i = a
      · rw [if_pos hi, if_pos ⟨hi, ha⟩]; rfl
      · rw [if_neg hi, if_neg (fun h => hi h.1)]
  · next ha => rw [if_neg (fun h => ha h.2)]

/-- Bytes outside a written pixel read as before. -/
theorem memRead_writePixel (m : List Host.Cell) (a i : Nat) (c : Color) (h : i < a ∨ a + 2 < i) :
    memRead (writePixel m a c) i = memRead m i := by
  unfold writePixel
  rw [memRead_memWrite, if_neg (by omega), memRead_memWrite, if_neg (by omega), memRead_memWrite, if_neg (by omega)]

/-- A pixel at a different pixel address reads as before. -/
theorem readPixel_writePixel_ne (m : List Host.Cell) (a i : Nat) (c : Color) (h : a ≠ i) :
    readPixel (writePixel m (a * 3) c) (i * 3) = readPixel m (i * 3) := by
  unfold readPixel
  rw [memRead_writePixel, memRead_writePixel, memRead_writePixel] <;> omega

/-- A pixel that is written inside picture memory reads back. -/
theorem readPixel_writePixel (m : List Host.Cell) (a : Nat) (c : Color) (h : a + 2 < Config.pictureBytes) :
    readPixel (writePixel m a c) a = c := by
  have h0 : a < Config.pictureBytes := by omega
  have h1 : a + 1 < Config.pictureBytes := by omega
  unfold readPixel writePixel
  simp [memRead_memWrite, h, h0, h1]

end Sys2Proof.Machine
end

