-- ==== Sys2Proof/Laws/Frames.lean ====
section
/-! SUPPORT. One lemma per operation: the fields of the state that it leaves as they are. -/

namespace Sys2Proof.Machine

variable (s : State)

@[simp] theorem composeLine_frame (n : Nat) (base : Nat → Color) :
    (composeLine s n base).resetn = s.resetn ∧ (composeLine s n base).pins = s.pins ∧
    (composeLine s n base).receiver = s.receiver ∧ (composeLine s n base).intake = s.intake ∧
    (composeLine s n base).lane = s.lane ∧ (composeLine s n base).tables = s.tables ∧
    (composeLine s n base).audit = s.audit ∧ (composeLine s n base).timing = s.timing ∧
    (composeLine s n base).context = s.context ∧ (composeLine s n base).photos = s.photos ∧
    (composeLine s n base).glyphs = s.glyphs ∧ (composeLine s n base).capture = s.capture ∧
    (composeLine s n base).kept = s.kept ∧ (composeLine s n base).output = s.output ∧
    (composeLine s n base).pending = s.pending := by
  unfold composeLine
  (repeat' split) <;> simp

@[simp] theorem composeFillLine_frame :
    (composeFillLine s).resetn = s.resetn ∧ (composeFillLine s).pins = s.pins ∧
    (composeFillLine s).receiver = s.receiver ∧ (composeFillLine s).intake = s.intake ∧
    (composeFillLine s).lane = s.lane ∧ (composeFillLine s).tables = s.tables ∧ (composeFillLine s).audit = s.audit ∧
    (composeFillLine s).timing = s.timing ∧ (composeFillLine s).context = s.context ∧
    (composeFillLine s).photos = s.photos ∧ (composeFillLine s).glyphs = s.glyphs ∧
    (composeFillLine s).capture = s.capture ∧ (composeFillLine s).kept = s.kept ∧
    (composeFillLine s).output = s.output ∧ (composeFillLine s).pending = s.pending := by
  unfold composeFillLine
  (repeat' split) <;> simp

@[simp] theorem failRequest_frame (q : CaptureRequest) (r : StripResult) :
    (failRequest s q r).resetn = s.resetn ∧ (failRequest s q r).pins = s.pins ∧
    (failRequest s q r).receiver = s.receiver ∧ (failRequest s q r).intake = s.intake ∧
    (failRequest s q r).tables = s.tables ∧ (failRequest s q r).audit = s.audit ∧
    (failRequest s q r).timing = s.timing ∧ (failRequest s q r).context = s.context ∧
    (failRequest s q r).frame = s.frame ∧ (failRequest s q r).kept = s.kept ∧ (failRequest s q r).output = s.output ∧
    (failRequest s q r).out = s.out ∧ (failRequest s q r).pending = s.pending := by
  unfold failRequest
  (repeat' split) <;> simp

@[simp] theorem failInFlight_frame (r : StripResult) :
    (failInFlight s r).resetn = s.resetn ∧ (failInFlight s r).pins = s.pins ∧
    (failInFlight s r).receiver = s.receiver ∧ (failInFlight s r).intake = s.intake ∧
    (failInFlight s r).tables = s.tables ∧ (failInFlight s r).audit = s.audit ∧ (failInFlight s r).timing = s.timing ∧
    (failInFlight s r).context = s.context ∧ (failInFlight s r).frame = s.frame ∧ (failInFlight s r).kept = s.kept ∧
    (failInFlight s r).output = s.output ∧ (failInFlight s r).out = s.out ∧ (failInFlight s r).pending = s.pending := by
  unfold failInFlight
  (repeat' split) <;> simp

@[simp] theorem armCapture_frame :
    (armCapture s).resetn = s.resetn ∧ (armCapture s).pins = s.pins ∧ (armCapture s).receiver = s.receiver ∧
    (armCapture s).intake = s.intake ∧ (armCapture s).tables = s.tables ∧ (armCapture s).audit = s.audit ∧
    (armCapture s).timing = s.timing ∧ (armCapture s).context = s.context ∧ (armCapture s).frame = s.frame ∧
    (armCapture s).kept = s.kept ∧ (armCapture s).output = s.output ∧ (armCapture s).out = s.out ∧
    (armCapture s).pending = s.pending := by
  unfold armCapture
  (repeat' split) <;> simp

@[simp] theorem armIfGood_frame (c : FrameCause) :
    (armIfGood s c).resetn = s.resetn ∧ (armIfGood s c).pins = s.pins ∧ (armIfGood s c).receiver = s.receiver ∧
    (armIfGood s c).intake = s.intake ∧ (armIfGood s c).tables = s.tables ∧ (armIfGood s c).audit = s.audit ∧
    (armIfGood s c).timing = s.timing ∧ (armIfGood s c).context = s.context ∧ (armIfGood s c).frame = s.frame ∧
    (armIfGood s c).kept = s.kept ∧ (armIfGood s c).output = s.output ∧ (armIfGood s c).out = s.out ∧
    (armIfGood s c).pending = s.pending := by
  unfold armIfGood
  (repeat' split) <;> simp

@[simp] theorem completeCapture_frame :
    (completeCapture s).resetn = s.resetn ∧ (completeCapture s).pins = s.pins ∧
    (completeCapture s).receiver = s.receiver ∧ (completeCapture s).intake = s.intake ∧
    (completeCapture s).tables = s.tables ∧ (completeCapture s).audit = s.audit ∧
    (completeCapture s).timing = s.timing ∧ (completeCapture s).context = s.context ∧
    (completeCapture s).frame = s.frame ∧ (completeCapture s).photos = s.photos ∧
    (completeCapture s).glyphs = s.glyphs ∧ (completeCapture s).kept = s.kept ∧
    (completeCapture s).output = s.output ∧ (completeCapture s).out = s.out ∧ (completeCapture s).pending = s.pending :=
  ⟨rfl, rfl, rfl, rfl, rfl, rfl, rfl, rfl, rfl, rfl, rfl, rfl, rfl, rfl, rfl⟩

@[simp] theorem countLine_frame (f : InFlight) :
    (countLine s f).resetn = s.resetn ∧ (countLine s f).pins = s.pins ∧ (countLine s f).receiver = s.receiver ∧
    (countLine s f).intake = s.intake ∧ (countLine s f).lane = s.lane ∧ (countLine s f).tables = s.tables ∧
    (countLine s f).audit = s.audit ∧ (countLine s f).timing = s.timing ∧ (countLine s f).context = s.context ∧
    (countLine s f).frame = s.frame ∧ (countLine s f).photos = s.photos ∧ (countLine s f).glyphs = s.glyphs ∧
    (countLine s f).kept = s.kept ∧ (countLine s f).output = s.output ∧ (countLine s f).out = s.out ∧
    (countLine s f).pending = s.pending :=
  ⟨rfl, rfl, rfl, rfl, rfl, rfl, rfl, rfl, rfl, rfl, rfl, rfl, rfl, rfl, rfl, rfl⟩

@[simp] theorem stripLine_frame (f : InFlight) (id x y row rows a : Nat) (l : List Color) (n : Nat) :
    (stripLine s f id x y row rows a l n).resetn = s.resetn ∧ (stripLine s f id x y row rows a l n).pins = s.pins ∧
    (stripLine s f id x y row rows a l n).receiver = s.receiver ∧
    (stripLine s f id x y row rows a l n).intake = s.intake ∧
    (stripLine s f id x y row rows a l n).tables = s.tables ∧ (stripLine s f id x y row rows a l n).audit = s.audit ∧
    (stripLine s f id x y row rows a l n).timing = s.timing ∧
    (stripLine s f id x y row rows a l n).context = s.context ∧
    (stripLine s f id x y row rows a l n).frame = s.frame ∧ (stripLine s f id x y row rows a l n).kept = s.kept ∧
    (stripLine s f id x y row rows a l n).output = s.output ∧ (stripLine s f id x y row rows a l n).out = s.out ∧
    (stripLine s f id x y row rows a l n).pending = s.pending := by
  unfold stripLine
  (repeat' split) <;> simp

@[simp] theorem glyphLine_frame (f : InFlight) (font slot x y w h a : Nat) (l : List Color) :
    (glyphLine s f font slot x y w h a l).resetn = s.resetn ∧ (glyphLine s f font slot x y w h a l).pins = s.pins ∧
    (glyphLine s f font slot x y w h a l).receiver = s.receiver ∧
    (glyphLine s f font slot x y w h a l).intake = s.intake ∧
    (glyphLine s f font slot x y w h a l).tables = s.tables ∧ (glyphLine s f font slot x y w h a l).audit = s.audit ∧
    (glyphLine s f font slot x y w h a l).timing = s.timing ∧
    (glyphLine s f font slot x y w h a l).context = s.context ∧
    (glyphLine s f font slot x y w h a l).frame = s.frame ∧ (glyphLine s f font slot x y w h a l).kept = s.kept ∧
    (glyphLine s f font slot x y w h a l).output = s.output ∧ (glyphLine s f font slot x y w h a l).out = s.out ∧
    (glyphLine s f font slot x y w h a l).pending = s.pending := by
  unfold glyphLine
  (repeat' split) <;> simp

@[simp] theorem captureLine_frame (a : Nat) (l : List Color) (n : Nat) :
    (captureLine s a l n).resetn = s.resetn ∧ (captureLine s a l n).pins = s.pins ∧
    (captureLine s a l n).receiver = s.receiver ∧ (captureLine s a l n).intake = s.intake ∧
    (captureLine s a l n).tables = s.tables ∧ (captureLine s a l n).audit = s.audit ∧
    (captureLine s a l n).timing = s.timing ∧ (captureLine s a l n).context = s.context ∧
    (captureLine s a l n).frame = s.frame ∧ (captureLine s a l n).kept = s.kept ∧
    (captureLine s a l n).output = s.output ∧ (captureLine s a l n).out = s.out ∧
    (captureLine s a l n).pending = s.pending := by
  unfold captureLine
  (repeat' split) <;> simp

@[simp] theorem completeAudit_frame (x : StagedState) (r : AuditResult) :
    (completeAudit s x r).resetn = s.resetn ∧ (completeAudit s x r).pins = s.pins ∧
    (completeAudit s x r).receiver = s.receiver ∧ (completeAudit s x r).intake = s.intake ∧
    (completeAudit s x r).timing = s.timing ∧ (completeAudit s x r).context = s.context ∧
    (completeAudit s x r).frame = s.frame ∧ (completeAudit s x r).photos = s.photos ∧
    (completeAudit s x r).glyphs = s.glyphs ∧ (completeAudit s x r).capture = s.capture ∧
    (completeAudit s x r).kept = s.kept ∧ (completeAudit s x r).output = s.output ∧
    (completeAudit s x r).out = s.out ∧ (completeAudit s x r).pending = s.pending :=
  ⟨rfl, rfl, rfl, rfl, rfl, rfl, rfl, rfl, rfl, rfl, rfl, rfl, rfl, rfl⟩

@[simp] theorem auditFrame_frame :
    (auditFrame s).resetn = s.resetn ∧ (auditFrame s).pins = s.pins ∧ (auditFrame s).receiver = s.receiver ∧
    (auditFrame s).intake = s.intake ∧ (auditFrame s).timing = s.timing ∧ (auditFrame s).context = s.context ∧
    (auditFrame s).frame = s.frame ∧ (auditFrame s).photos = s.photos ∧ (auditFrame s).glyphs = s.glyphs ∧
    (auditFrame s).capture = s.capture ∧ (auditFrame s).kept = s.kept ∧ (auditFrame s).output = s.output ∧
    (auditFrame s).out = s.out ∧ (auditFrame s).pending = s.pending := by
  unfold auditFrame
  (repeat' split) <;> simp

@[simp] theorem abortAudit_frame (r : AuditResult) :
    (abortAudit s r).resetn = s.resetn ∧ (abortAudit s r).pins = s.pins ∧ (abortAudit s r).receiver = s.receiver ∧
    (abortAudit s r).intake = s.intake ∧ (abortAudit s r).lane = s.lane ∧ (abortAudit s r).tables = s.tables ∧
    (abortAudit s r).timing = s.timing ∧ (abortAudit s r).context = s.context ∧ (abortAudit s r).frame = s.frame ∧
    (abortAudit s r).photos = s.photos ∧ (abortAudit s r).glyphs = s.glyphs ∧ (abortAudit s r).capture = s.capture ∧
    (abortAudit s r).kept = s.kept ∧ (abortAudit s r).output = s.output ∧ (abortAudit s r).out = s.out ∧
    (abortAudit s r).pending = s.pending := by
  unfold abortAudit
  (repeat' split) <;> simp

@[simp] theorem keepFlags_frame :
    (keepFlags s).resetn = s.resetn ∧ (keepFlags s).pins = s.pins ∧ (keepFlags s).receiver = s.receiver ∧
    (keepFlags s).intake = s.intake ∧ (keepFlags s).lane = s.lane ∧ (keepFlags s).tables = s.tables ∧
    (keepFlags s).audit = s.audit ∧ (keepFlags s).timing = s.timing ∧ (keepFlags s).context = s.context ∧
    (keepFlags s).frame = s.frame ∧ (keepFlags s).photos = s.photos ∧ (keepFlags s).glyphs = s.glyphs ∧
    (keepFlags s).capture = s.capture ∧ (keepFlags s).output = s.output ∧ (keepFlags s).out = s.out ∧
    (keepFlags s).pending = s.pending := by
  unfold keepFlags
  (repeat' split) <;> simp

@[simp] theorem expireCounts_frame :
    (expireCounts s).resetn = s.resetn ∧ (expireCounts s).pins = s.pins ∧ (expireCounts s).receiver = s.receiver ∧
    (expireCounts s).intake = s.intake ∧ (expireCounts s).lane = s.lane ∧ (expireCounts s).audit = s.audit ∧
    (expireCounts s).timing = s.timing ∧ (expireCounts s).context = s.context ∧ (expireCounts s).frame = s.frame ∧
    (expireCounts s).capture = s.capture ∧ (expireCounts s).kept = s.kept ∧ (expireCounts s).output = s.output ∧
    (expireCounts s).out = s.out ∧ (expireCounts s).pending = s.pending := by
  unfold expireCounts
  (repeat' split) <;> simp

@[simp] theorem cancelTake_frame :
    (cancelTake s).resetn = s.resetn ∧ (cancelTake s).pins = s.pins ∧ (cancelTake s).receiver = s.receiver ∧
    (cancelTake s).intake = s.intake ∧ (cancelTake s).audit = s.audit ∧ (cancelTake s).timing = s.timing ∧
    (cancelTake s).context = s.context ∧ (cancelTake s).frame = s.frame ∧ (cancelTake s).photos = s.photos ∧
    (cancelTake s).glyphs = s.glyphs ∧ (cancelTake s).capture = s.capture ∧ (cancelTake s).kept = s.kept ∧
    (cancelTake s).output = s.output ∧ (cancelTake s).out = s.out ∧ (cancelTake s).pending = s.pending :=
  ⟨rfl, rfl, rfl, rfl, rfl, rfl, rfl, rfl, rfl, rfl, rfl, rfl, rfl, rfl, rfl⟩

@[simp] theorem applyTake_frame :
    (applyTake s).resetn = s.resetn ∧ (applyTake s).pins = s.pins ∧ (applyTake s).receiver = s.receiver ∧
    (applyTake s).intake = s.intake ∧ (applyTake s).audit = s.audit ∧ (applyTake s).timing = s.timing ∧
    (applyTake s).context = s.context ∧ (applyTake s).frame = s.frame ∧ (applyTake s).capture = s.capture ∧
    (applyTake s).kept = s.kept ∧ (applyTake s).output = s.output ∧ (applyTake s).out = s.out ∧
    (applyTake s).pending = s.pending :=
  ⟨rfl, rfl, rfl, rfl, rfl, rfl, rfl, rfl, rfl, rfl, rfl, rfl, rfl⟩

@[simp] theorem settleTake_frame (n : FrameNo) (c : Bool) :
    (settleTake s n c).resetn = s.resetn ∧ (settleTake s n c).pins = s.pins ∧
    (settleTake s n c).receiver = s.receiver ∧ (settleTake s n c).intake = s.intake ∧
    (settleTake s n c).audit = s.audit ∧ (settleTake s n c).timing = s.timing ∧
    (settleTake s n c).context = s.context ∧ (settleTake s n c).frame = s.frame ∧
    (settleTake s n c).capture = s.capture ∧ (settleTake s n c).kept = s.kept ∧ (settleTake s n c).output = s.output ∧
    (settleTake s n c).out = s.out ∧ (settleTake s n c).pending = s.pending := by
  unfold settleTake
  (repeat' split) <;> simp

@[simp] theorem timeFrame_frame (n : FrameNo) (m : Bool) :
    (timeFrame s n m).resetn = s.resetn ∧ (timeFrame s n m).pins = s.pins ∧ (timeFrame s n m).receiver = s.receiver ∧
    (timeFrame s n m).intake = s.intake ∧ (timeFrame s n m).lane = s.lane ∧ (timeFrame s n m).tables = s.tables ∧
    (timeFrame s n m).audit = s.audit ∧ (timeFrame s n m).context = s.context ∧ (timeFrame s n m).frame = s.frame ∧
    (timeFrame s n m).photos = s.photos ∧ (timeFrame s n m).glyphs = s.glyphs ∧
    (timeFrame s n m).capture = s.capture ∧ (timeFrame s n m).kept = s.kept ∧ (timeFrame s n m).output = s.output ∧
    (timeFrame s n m).out = s.out ∧ (timeFrame s n m).pending = s.pending :=
  ⟨rfl, rfl, rfl, rfl, rfl, rfl, rfl, rfl, rfl, rfl, rfl, rfl, rfl, rfl, rfl, rfl⟩

@[simp] theorem beginFrame_frame (k : FrameKind) :
    (beginFrame s k).resetn = s.resetn ∧ (beginFrame s k).pins = s.pins ∧ (beginFrame s k).receiver = s.receiver ∧
    (beginFrame s k).intake = s.intake ∧ (beginFrame s k).lane = s.lane ∧ (beginFrame s k).tables = s.tables ∧
    (beginFrame s k).audit = s.audit ∧ (beginFrame s k).timing = s.timing ∧ (beginFrame s k).photos = s.photos ∧
    (beginFrame s k).glyphs = s.glyphs ∧ (beginFrame s k).capture = s.capture ∧ (beginFrame s k).kept = s.kept ∧
    (beginFrame s k).output = s.output ∧ (beginFrame s k).out = s.out ∧ (beginFrame s k).pending = s.pending :=
  ⟨rfl, rfl, rfl, rfl, rfl, rfl, rfl, rfl, rfl, rfl, rfl, rfl, rfl, rfl, rfl⟩

@[simp] theorem samplePanel_frame :
    (samplePanel s).resetn = s.resetn ∧ (samplePanel s).pins = s.pins ∧ (samplePanel s).receiver = s.receiver ∧
    (samplePanel s).intake = s.intake ∧ (samplePanel s).tables = s.tables ∧ (samplePanel s).audit = s.audit ∧
    (samplePanel s).timing = s.timing ∧ (samplePanel s).context = s.context ∧ (samplePanel s).frame = s.frame ∧
    (samplePanel s).photos = s.photos ∧ (samplePanel s).glyphs = s.glyphs ∧ (samplePanel s).capture = s.capture ∧
    (samplePanel s).kept = s.kept ∧ (samplePanel s).out = s.out ∧ (samplePanel s).pending = s.pending := by
  unfold samplePanel
  extract_lets level
  split
  · simp
  · split <;> simp

@[simp] theorem stepBacklight_frame :
    (stepBacklight s).resetn = s.resetn ∧ (stepBacklight s).pins = s.pins ∧ (stepBacklight s).receiver = s.receiver ∧
    (stepBacklight s).intake = s.intake ∧ (stepBacklight s).lane = s.lane ∧ (stepBacklight s).tables = s.tables ∧
    (stepBacklight s).audit = s.audit ∧ (stepBacklight s).timing = s.timing ∧ (stepBacklight s).context = s.context ∧
    (stepBacklight s).frame = s.frame ∧ (stepBacklight s).photos = s.photos ∧ (stepBacklight s).glyphs = s.glyphs ∧
    (stepBacklight s).capture = s.capture ∧ (stepBacklight s).kept = s.kept ∧ (stepBacklight s).out = s.out ∧
    (stepBacklight s).pending = s.pending := by
  unfold stepBacklight
  (repeat' split) <;> simp

@[simp] theorem openFrame_frame (k : FrameKind) :
    (openFrame s k).resetn = s.resetn ∧ (openFrame s k).pins = s.pins ∧ (openFrame s k).receiver = s.receiver ∧
    (openFrame s k).intake = s.intake ∧ (openFrame s k).lane = s.lane ∧ (openFrame s k).tables = s.tables ∧
    (openFrame s k).audit = s.audit ∧ (openFrame s k).timing = s.timing ∧ (openFrame s k).context = s.context ∧
    (openFrame s k).photos = s.photos ∧ (openFrame s k).glyphs = s.glyphs ∧ (openFrame s k).capture = s.capture ∧
    (openFrame s k).kept = s.kept ∧ (openFrame s k).output = s.output ∧ (openFrame s k).pending = s.pending := by
  unfold openFrame
  (repeat' split) <;> simp

@[simp] theorem settleFrame_frame (c : FrameCause) (b : Bool) :
    (settleFrame s c b).resetn = s.resetn ∧ (settleFrame s c b).pins = s.pins ∧
    (settleFrame s c b).receiver = s.receiver ∧ (settleFrame s c b).intake = s.intake ∧
    (settleFrame s c b).context = s.context ∧ (settleFrame s c b).frame = s.frame ∧
    (settleFrame s c b).output = s.output ∧ (settleFrame s c b).out = s.out ∧ (settleFrame s c b).pending = s.pending := by
  unfold settleFrame
  simp

@[simp] theorem frameStart_frame (c : FrameCause) (b : Bool) :
    (frameStart s c b).resetn = s.resetn ∧ (frameStart s c b).pins = s.pins ∧
    (frameStart s c b).receiver = s.receiver ∧ (frameStart s c b).intake = s.intake ∧
    (frameStart s c b).pending = s.pending := by
  unfold frameStart
  simp

@[simp] theorem countGood_frame :
    (countGood s).resetn = s.resetn ∧ (countGood s).pins = s.pins ∧ (countGood s).receiver = s.receiver ∧
    (countGood s).intake = s.intake ∧ (countGood s).lane = s.lane ∧ (countGood s).tables = s.tables ∧
    (countGood s).audit = s.audit ∧ (countGood s).context = s.context ∧ (countGood s).frame = s.frame ∧
    (countGood s).photos = s.photos ∧ (countGood s).glyphs = s.glyphs ∧ (countGood s).capture = s.capture ∧
    (countGood s).kept = s.kept ∧ (countGood s).output = s.output ∧ (countGood s).out = s.out ∧
    (countGood s).pending = s.pending :=
  ⟨rfl, rfl, rfl, rfl, rfl, rfl, rfl, rfl, rfl, rfl, rfl, rfl, rfl, rfl, rfl, rfl⟩

@[simp] theorem clearGood_frame :
    (clearGood s).resetn = s.resetn ∧ (clearGood s).pins = s.pins ∧ (clearGood s).receiver = s.receiver ∧
    (clearGood s).intake = s.intake ∧ (clearGood s).lane = s.lane ∧ (clearGood s).tables = s.tables ∧
    (clearGood s).audit = s.audit ∧ (clearGood s).context = s.context ∧ (clearGood s).frame = s.frame ∧
    (clearGood s).photos = s.photos ∧ (clearGood s).glyphs = s.glyphs ∧ (clearGood s).capture = s.capture ∧
    (clearGood s).kept = s.kept ∧ (clearGood s).output = s.output ∧ (clearGood s).out = s.out ∧
    (clearGood s).pending = s.pending :=
  ⟨rfl, rfl, rfl, rfl, rfl, rfl, rfl, rfl, rfl, rfl, rfl, rfl, rfl, rfl, rfl, rfl⟩

@[simp] theorem enterLive_frame :
    (enterLive s).resetn = s.resetn ∧ (enterLive s).pins = s.pins ∧ (enterLive s).receiver = s.receiver ∧
    (enterLive s).intake = s.intake ∧ (enterLive s).tables = s.tables ∧ (enterLive s).audit = s.audit ∧
    (enterLive s).context = s.context ∧ (enterLive s).frame = s.frame ∧ (enterLive s).photos = s.photos ∧
    (enterLive s).glyphs = s.glyphs ∧ (enterLive s).capture = s.capture ∧ (enterLive s).kept = s.kept ∧
    (enterLive s).output = s.output ∧ (enterLive s).out = s.out ∧ (enterLive s).pending = s.pending :=
  ⟨rfl, rfl, rfl, rfl, rfl, rfl, rfl, rfl, rfl, rfl, rfl, rfl, rfl, rfl, rfl⟩

@[simp] theorem enterStandalone_frame :
    (enterStandalone s).resetn = s.resetn ∧ (enterStandalone s).pins = s.pins ∧
    (enterStandalone s).receiver = s.receiver ∧ (enterStandalone s).intake = s.intake ∧
    (enterStandalone s).tables = s.tables ∧ (enterStandalone s).audit = s.audit ∧
    (enterStandalone s).context = s.context ∧ (enterStandalone s).frame = s.frame ∧
    (enterStandalone s).photos = s.photos ∧ (enterStandalone s).glyphs = s.glyphs ∧
    (enterStandalone s).capture = s.capture ∧ (enterStandalone s).kept = s.kept ∧
    (enterStandalone s).output = s.output ∧ (enterStandalone s).out = s.out ∧ (enterStandalone s).pending = s.pending :=
  ⟨rfl, rfl, rfl, rfl, rfl, rfl, rfl, rfl, rfl, rfl, rfl, rfl, rfl, rfl, rfl⟩

@[simp] theorem goodHeader_frame (h : Header) :
    (goodHeader s h).resetn = s.resetn ∧ (goodHeader s h).pins = s.pins ∧ (goodHeader s h).receiver = s.receiver ∧
    (goodHeader s h).intake = s.intake ∧ (goodHeader s h).pending = s.pending := by
  unfold goodHeader
  (repeat' split) <;> simp

@[simp] theorem missFrame_frame (c : FrameCause) :
    (missFrame s c).resetn = s.resetn ∧ (missFrame s c).pins = s.pins ∧ (missFrame s c).receiver = s.receiver ∧
    (missFrame s c).intake = s.intake ∧ (missFrame s c).pending = s.pending := by
  unfold missFrame
  (repeat' split) <;> simp

@[simp] theorem badHeader_frame :
    (badHeader s).resetn = s.resetn ∧ (badHeader s).pins = s.pins ∧ (badHeader s).receiver = s.receiver ∧
    (badHeader s).intake = s.intake ∧ (badHeader s).pending = s.pending := by
  unfold badHeader
  (repeat' split) <;> simp

@[simp] theorem headerEnd_frame (l : List Byte) :
    (headerEnd s l).resetn = s.resetn ∧ (headerEnd s l).pins = s.pins ∧ (headerEnd s l).intake = s.intake ∧
    (headerEnd s l).pending = s.pending := by
  unfold headerEnd
  (repeat' split) <;> simp

@[simp] theorem missAtStop_frame :
    (missAtStop s).resetn = s.resetn ∧ (missAtStop s).pins = s.pins ∧ (missAtStop s).receiver = s.receiver ∧
    (missAtStop s).intake = s.intake ∧ (missAtStop s).tables = s.tables ∧ (missAtStop s).audit = s.audit ∧
    (missAtStop s).context = s.context ∧ (missAtStop s).frame = s.frame ∧ (missAtStop s).photos = s.photos ∧
    (missAtStop s).glyphs = s.glyphs ∧ (missAtStop s).capture = s.capture ∧ (missAtStop s).kept = s.kept ∧
    (missAtStop s).output = s.output ∧ (missAtStop s).out = s.out ∧ (missAtStop s).pending = s.pending := by
  unfold missAtStop
  (repeat' split) <;> simp

@[simp] theorem closeInput_frame :
    (closeInput s).resetn = s.resetn ∧ (closeInput s).pins = s.pins ∧ (closeInput s).receiver = s.receiver ∧
    (closeInput s).intake = s.intake ∧ (closeInput s).lane = s.lane ∧ (closeInput s).tables = s.tables ∧
    (closeInput s).audit = s.audit ∧ (closeInput s).timing = s.timing ∧ (closeInput s).context = s.context ∧
    (closeInput s).photos = s.photos ∧ (closeInput s).glyphs = s.glyphs ∧ (closeInput s).capture = s.capture ∧
    (closeInput s).kept = s.kept ∧ (closeInput s).output = s.output ∧ (closeInput s).out = s.out ∧
    (closeInput s).pending = s.pending :=
  ⟨rfl, rfl, rfl, rfl, rfl, rfl, rfl, rfl, rfl, rfl, rfl, rfl, rfl, rfl, rfl, rfl⟩

@[simp] theorem stopInput_frame :
    (stopInput s).resetn = s.resetn ∧ (stopInput s).pins = s.pins ∧ (stopInput s).receiver = s.receiver ∧
    (stopInput s).intake = s.intake ∧ (stopInput s).tables = s.tables ∧ (stopInput s).audit = s.audit ∧
    (stopInput s).context = s.context ∧ (stopInput s).kept = s.kept ∧ (stopInput s).output = s.output ∧
    (stopInput s).pending = s.pending := by
  unfold stopInput
  (repeat' split) <;> simp

@[simp] theorem feedLine_frame (f : Frame) (a : Nat) (l : List Color) :
    (feedLine s f a l).resetn = s.resetn ∧ (feedLine s f a l).pins = s.pins ∧
    (feedLine s f a l).receiver = s.receiver ∧ (feedLine s f a l).intake = s.intake ∧
    (feedLine s f a l).tables = s.tables ∧ (feedLine s f a l).audit = s.audit ∧ (feedLine s f a l).timing = s.timing ∧
    (feedLine s f a l).context = s.context ∧ (feedLine s f a l).kept = s.kept ∧ (feedLine s f a l).output = s.output ∧
    (feedLine s f a l).pending = s.pending := by
  unfold feedLine
  (repeat' split) <;> simp

@[simp] theorem activeArrives_frame (l : List Byte) :
    (activeArrives s l).resetn = s.resetn ∧ (activeArrives s l).pins = s.pins ∧
    (activeArrives s l).intake = s.intake ∧ (activeArrives s l).tables = s.tables ∧
    (activeArrives s l).audit = s.audit ∧ (activeArrives s l).timing = s.timing ∧
    (activeArrives s l).context = s.context ∧ (activeArrives s l).kept = s.kept ∧
    (activeArrives s l).output = s.output ∧ (activeArrives s l).pending = s.pending := by
  unfold activeArrives
  (repeat' split) <;> simp

@[simp] theorem localLine_frame :
    (localLine s).resetn = s.resetn ∧ (localLine s).pins = s.pins ∧ (localLine s).receiver = s.receiver ∧
    (localLine s).intake = s.intake ∧ (localLine s).lane = s.lane ∧ (localLine s).tables = s.tables ∧
    (localLine s).audit = s.audit ∧ (localLine s).timing = s.timing ∧ (localLine s).context = s.context ∧
    (localLine s).photos = s.photos ∧ (localLine s).glyphs = s.glyphs ∧ (localLine s).capture = s.capture ∧
    (localLine s).kept = s.kept ∧ (localLine s).output = s.output ∧ (localLine s).pending = s.pending := by
  unfold localLine
  (repeat' split) <;> simp

@[simp] theorem joinIntake_frame (k : Packet) :
    (joinIntake s k).resetn = s.resetn ∧ (joinIntake s k).pins = s.pins ∧ (joinIntake s k).receiver = s.receiver ∧
    (joinIntake s k).tables = s.tables ∧ (joinIntake s k).audit = s.audit ∧ (joinIntake s k).timing = s.timing ∧
    (joinIntake s k).context = s.context ∧ (joinIntake s k).frame = s.frame ∧ (joinIntake s k).photos = s.photos ∧
    (joinIntake s k).glyphs = s.glyphs ∧ (joinIntake s k).capture = s.capture ∧ (joinIntake s k).kept = s.kept ∧
    (joinIntake s k).output = s.output ∧ (joinIntake s k).out = s.out ∧ (joinIntake s k).pending = s.pending := by
  unfold joinIntake
  (repeat' split) <;> simp

end Sys2Proof.Machine
end

