-- ==== Sys2Proof/Laws/Packets.lean ====
section
/-! SUPPORT. What a packet row does, once for all thirty-four rows. -/

namespace Sys2Proof.Machine

/-- A packet row brings its packet to Packet Intake, unless RESETn is asserted. -/
theorem exec_packetOf {i : Instr} {k : Packet} (h : packetOf i = some k) (s : State) :
    exec i s = .next (if s.resetn then entered s i else packetArrives (entered s i) k) := by
  cases i <;> simp only [packetOf, Option.some.injEq, reduceCtorEq] at h <;> subst h <;> rfl

@[simp] theorem targeted_entered (s : State) (i : Instr) (h : PacketHead) :
    targeted (entered s i) h = targeted s h := rfl

@[simp] theorem answered_entered (s : State) (i : Instr) (k : Packet) : answered (entered s i) k = answered s k := rfl

/-- Whether a command is answered does not depend on its payload. -/
theorem answered_payload (s : State) (h : PacketHead) (c : Byte) (p q : List Byte) :
    answered s ⟨h, c, p⟩ = answered s ⟨h, c, q⟩ := rfl

/-- The Command Processor takes the head of the intake queue, where it is not stalled on it. -/
theorem takePackets_take {s : State} {f : Frame} {k : Packet} {rest : List Packet} (n : Nat) (hf : s.frame = some f)
    (hq : s.intake = k :: rest) (hs : answered s k = true → replyFull s = false) :
    takePackets (n + 1) s = takePackets n (takePacket { s with intake := rest } k) := by
  have h : (answered s k && replyFull s) = false := by
    cases ha : answered s k <;> simp_all
  rw [takePackets]
  simp only [hf, hq, h, Bool.false_eq_true, if_false]

/-- The Command Processor takes nothing while it is stalled on the head. -/
theorem takePackets_stalled {s : State} {k : Packet} {rest : List Packet} (n : Nat) (hq : s.intake = k :: rest)
    (ha : answered s k = true) (hr : replyFull s = true) : takePackets n s = s := by
  cases n with
  | zero => rfl
  | succ n =>
    rw [takePackets]
    cases hf : s.frame <;> simp [hq, ha, hr]

/-- The Command Processor takes nothing while no frame is in progress. -/
theorem takePackets_noFrame {s : State} (n : Nat) (hf : s.frame = none) : takePackets n s = s := by
  cases n with
  | zero => rfl
  | succ n => rw [takePackets]; simp [hf]

/-- The Command Processor takes nothing from an empty queue. -/
theorem takePackets_empty {s : State} (n : Nat) (hq : s.intake = []) : takePackets n s = s := by
  cases n with
  | zero => rfl
  | succ n =>
    rw [takePackets]
    cases hf : s.frame <;> simp [hq]

theorem process_empty {s : State} (hq : s.intake = []) : s.process = s := takePackets_empty _ hq

/-- A packet that is taken as it joins is carried out on the state it finds, and closed. -/
theorem packetArrives_takenAtOnce {s : State} {k : Packet} (h : TakenAtOnce s k.head k.code) :
    packetArrives s k = closing s k (carryOut k.code k.payload s) := by
  obtain ⟨-, ht, hq, hf, ha⟩ := h
  obtain ⟨f, hf⟩ := Option.isSome_iff_exists.1 hf
  have hj : joinIntake s k = { s with intake := [k] } := by simp [joinIntake, hq, Config.intakeCapacity]
  have hs : answered s k = true → replyFull s = false := fun hb => by
    have := ha hb
    simp [replyFull, this]
  have hp : packetArrives s k = takePackets (0 + 1) { s with intake := [k] } := by
    simp only [packetArrives, ht, if_true, hj, State.process, List.length_singleton]
  have hback : { { s with intake := [k] } with intake := ([] : List Packet) } = s := by
    cases s
    simp only at hq
    subst hq
    rfl
  rw [hp, takePackets_take (s := { s with intake := [k] }) 0 hf rfl hs, hback]
  rfl

/-- A packet row whose packet is taken as it joins. -/
theorem exec_takenAtOnce {i : Instr} {k : Packet} (hi : packetOf i = some k) {s : State}
    (h : TakenAtOnce s k.head k.code) :
    exec i s = .next (closing s k (carryOut k.code k.payload (entered s i))) := by
  rw [exec_packetOf hi, h.1]
  have h' : TakenAtOnce (entered s i) k.head k.code := h
  simp only [Bool.false_eq_true, if_false, packetArrives_takenAtOnce h']
  rfl

end Sys2Proof.Machine
end

