-- ==== Sys2Proof/Laws/Rows.lean ====
section
/-! SUPPORT. What each packet row does when its packet is taken as it joins: the row's carry definition on the state it finds,
closed by the reply. -/

namespace Sys2Proof.Machine

variable {s : State} {h : PacketHead} {p : List Byte}

theorem execItemPut_taken (hT : TakenAtOnce s h 0x10) :
    exec (.itemPut h p) s = .next (closing s ⟨h, 0x10, p⟩ (carryItemPut p s.begin)) := exec_takenAtOnce rfl hT

theorem execItemDrop_taken (hT : TakenAtOnce s h 0x11) :
    exec (.itemDrop h p) s = .next (closing s ⟨h, 0x11, p⟩ (carryItemDrop p s.begin)) := exec_takenAtOnce rfl hT

theorem execColumnPut_taken (hT : TakenAtOnce s h 0x12) :
    exec (.columnPut h p) s = .next (closing s ⟨h, 0x12, p⟩ (carryColumnPut p s.begin)) := exec_takenAtOnce rfl hT

theorem execFormatPut_taken (hT : TakenAtOnce s h 0x13) :
    exec (.formatPut h p) s = .next (closing s ⟨h, 0x13, p⟩ (carryFormatPut p s.begin)) := exec_takenAtOnce rfl hT

theorem execTilePut_taken (hT : TakenAtOnce s h 0x14) :
    exec (.tilePut h p) s = .next (closing s ⟨h, 0x14, p⟩ (carryTilePut p s.begin)) := exec_takenAtOnce rfl hT

theorem execTileDrop_taken (hT : TakenAtOnce s h 0x15) :
    exec (.tileDrop h p) s = .next (closing s ⟨h, 0x15, p⟩ (carryTileDrop p s.begin)) := exec_takenAtOnce rfl hT

theorem execPageWipe_taken (hT : TakenAtOnce s h 0x16) :
    exec (.pageWipe h p) s = .next (closing s ⟨h, 0x16, p⟩ (carryPageWipe p s.begin)) := exec_takenAtOnce rfl hT

theorem execSchedPut_taken (hT : TakenAtOnce s h 0x17) :
    exec (.schedPut h p) s = .next (closing s ⟨h, 0x17, p⟩ (carrySchedPut p s.begin)) := exec_takenAtOnce rfl hT

theorem execStageCopy_taken (hT : TakenAtOnce s h 0x18) :
    exec (.stageCopy h p) s = .next (closing s ⟨h, 0x18, p⟩ (carryStageCopy p s.begin)) := exec_takenAtOnce rfl hT

theorem execAudit_taken (hT : TakenAtOnce s h 0x19) :
    exec (.audit h p) s = .next (closing s ⟨h, 0x19, p⟩ (carryAudit p s.begin)) := exec_takenAtOnce rfl hT

theorem execTake_taken (hT : TakenAtOnce s h 0x1A) :
    exec (.take h p) s = .next (closing s ⟨h, 0x1A, p⟩ (carryTake p s.begin)) := exec_takenAtOnce rfl hT

theorem execTakeCancel_taken (hT : TakenAtOnce s h 0x1B) :
    exec (.takeCancel h p) s = .next (closing s ⟨h, 0x1B, p⟩ (carryTakeCancel p s.begin)) := exec_takenAtOnce rfl hT

theorem execStock_taken (hT : TakenAtOnce s h 0x20) :
    exec (.stock h p) s = .next (closing s ⟨h, 0x20, p⟩ (carryStock p s.begin)) := exec_takenAtOnce rfl hT

theorem execForce_taken (hT : TakenAtOnce s h 0x21) :
    exec (.force h p) s = .next (closing s ⟨h, 0x21, p⟩ (carryForce p s.begin)) := exec_takenAtOnce rfl hT

theorem execHighlight_taken (hT : TakenAtOnce s h 0x22) :
    exec (.highlight h p) s = .next (closing s ⟨h, 0x22, p⟩ (carryHighlight p s.begin)) := exec_takenAtOnce rfl hT

theorem execBacklight_taken (hT : TakenAtOnce s h 0x23) :
    exec (.backlight h p) s = .next (closing s ⟨h, 0x23, p⟩ (carryBacklight p s.begin)) := exec_takenAtOnce rfl hT

theorem execConfigPut_taken (hT : TakenAtOnce s h 0x24) :
    exec (.configPut h p) s = .next (closing s ⟨h, 0x24, p⟩ (carryConfigPut p s.begin)) := exec_takenAtOnce rfl hT

theorem execGammaPut_taken (hT : TakenAtOnce s h 0x25) :
    exec (.gammaPut h p) s = .next (closing s ⟨h, 0x25, p⟩ (carryGammaPut p s.begin)) := exec_takenAtOnce rfl hT

theorem execPhotoOpen_taken (hT : TakenAtOnce s h 0x30) :
    exec (.photoOpen h p) s = .next (closing s ⟨h, 0x30, p⟩ (carryPhotoOpen p s.begin)) := exec_takenAtOnce rfl hT

theorem execPhotoDrop_taken (hT : TakenAtOnce s h 0x31) :
    exec (.photoDrop h p) s = .next (closing s ⟨h, 0x31, p⟩ (carryPhotoDrop p s.begin)) := exec_takenAtOnce rfl hT

theorem execCapture_taken (hT : TakenAtOnce s h 0x32) :
    exec (.capture h p) s = .next (closing s ⟨h, 0x32, p⟩ (carryCapture p s.begin)) := exec_takenAtOnce rfl hT

theorem execGlyphLoad_taken (hT : TakenAtOnce s h 0x33) :
    exec (.glyphLoad h p) s = .next (closing s ⟨h, 0x33, p⟩ (carryGlyphLoad p s.begin)) := exec_takenAtOnce rfl hT

theorem execCaptureFlush_taken (hT : TakenAtOnce s h 0x34) :
    exec (.captureFlush h p) s = .next (closing s ⟨h, 0x34, p⟩ (carryCaptureFlush p s.begin)) := exec_takenAtOnce rfl hT

theorem execQueryNode_taken (hT : TakenAtOnce s h 0x40) :
    exec (.queryNode h p) s = .next (closing s ⟨h, 0x40, p⟩ (carryQuery p s.begin)) := exec_takenAtOnce rfl hT

theorem execQueryItem_taken (hT : TakenAtOnce s h 0x40) :
    exec (.queryItem h p) s = .next (closing s ⟨h, 0x40, p⟩ (carryQuery p s.begin)) := exec_takenAtOnce rfl hT

theorem execQueryTile_taken (hT : TakenAtOnce s h 0x40) :
    exec (.queryTile h p) s = .next (closing s ⟨h, 0x40, p⟩ (carryQuery p s.begin)) := exec_takenAtOnce rfl hT

theorem execQueryPhoto_taken (hT : TakenAtOnce s h 0x40) :
    exec (.queryPhoto h p) s = .next (closing s ⟨h, 0x40, p⟩ (carryQuery p s.begin)) := exec_takenAtOnce rfl hT

theorem execQueryStaging_taken (hT : TakenAtOnce s h 0x40) :
    exec (.queryStaging h p) s = .next (closing s ⟨h, 0x40, p⟩ (carryQuery p s.begin)) := exec_takenAtOnce rfl hT

theorem execQuerySchedule_taken (hT : TakenAtOnce s h 0x40) :
    exec (.querySchedule h p) s = .next (closing s ⟨h, 0x40, p⟩ (carryQuery p s.begin)) := exec_takenAtOnce rfl hT

theorem execQueryGlyph_taken (hT : TakenAtOnce s h 0x40) :
    exec (.queryGlyph h p) s = .next (closing s ⟨h, 0x40, p⟩ (carryQuery p s.begin)) := exec_takenAtOnce rfl hT

/-- NODE_RESET and RESTRAP are never answered. -/
theorem closing_unanswered {k : Packet} (hk : k.code = 0x41 ∨ k.code = 0x42) (t : Taken) : closing s k t = t.state := by
  have : answered s k = false := if_pos hk
  simp [closing, this]

theorem execNodeResetTables_taken (hT : TakenAtOnce s h 0x41) :
    exec (.nodeResetTables h p) s = .next (carryNodeReset p s.begin).state := by
  rw [exec_takenAtOnce rfl hT, closing_unanswered (.inl rfl)]
  rfl

theorem execNodeResetFull_taken {pins : Pins} (hT : TakenAtOnce s h 0x41) :
    exec (.nodeResetFull h p pins) s = .next (carryNodeReset p (s.begin.latch pins)).state := by
  rw [exec_takenAtOnce rfl hT, closing_unanswered (.inl rfl)]
  rfl

theorem execRestrap_taken {pins : Pins} (hT : TakenAtOnce s h 0x42) :
    exec (.restrap h p pins) s = .next (carryRestrap p (s.begin.latch pins)).state := by
  rw [exec_takenAtOnce rfl hT, closing_unanswered (.inr rfl)]
  rfl

end Sys2Proof.Machine
end

