-- ==== Sys2Proof/Laws/Payloads.lean ====
section
/-! SUPPORT. What the payload readers answer, said once: for each command with range tests, the payloads it refuses OUT_OF_RANGE
and the record it reads from the others. -/

namespace Sys2Proof.Machine

/-! ### Reading one field -/

/-- A byte is 00, 01 or above 01. -/
theorem flag_cases (b : Byte) : b = 0 ∨ b = 1 ∨ (b ≠ 0 ∧ b ≠ 1 ∧ 1 < b.toNat) := by
  by_cases h0 : b = 0
  · exact .inl h0
  · by_cases h1 : b = 1
    · exact .inr (.inl h1)
    · refine .inr (.inr ⟨h0, h1, ?_⟩)
      have h0 : b.toNat ≠ 0 := fun hh => h0 (BitVec.eq_of_toNat_eq hh)
      have h1 : b.toNat ≠ 1 := fun hh => h1 (BitVec.eq_of_toNat_eq hh)
      omega

theorem readFlag_none (p : List Byte) (o : Nat) (h : 1 < u8 p o) : readFlag (byteAt p o) = none := by
  rcases flag_cases (byteAt p o) with hb | hb | ⟨h0, h1, _⟩
  · simp [u8, hb] at h
  · simp [u8, hb] at h
  · unfold readFlag; rw [if_neg h0, if_neg h1]

theorem readFlag_some (p : List Byte) (o : Nat) (h : u8 p o ≤ 1) : readFlag (byteAt p o) = some (decide (u8 p o = 1)) := by
  rcases flag_cases (byteAt p o) with hb | hb | ⟨h0, h1, h2⟩
  · simp [u8, hb, readFlag]
  · simp [u8, hb, readFlag]
  · simp [u8] at h; omega

/-- A flag is read where its byte is 00 or 01 (R194). -/
theorem readFlag_eq (p : List Byte) (o : Nat) :
    readFlag (byteAt p o) = if u8 p o ≤ 1 then some (decide (u8 p o = 1)) else none := by
  by_cases h : u8 p o ≤ 1
  · rw [if_pos h, readFlag_some p o h]
  · rw [if_neg h, readFlag_none p o (by omega)]

/-- A list of entries is read where each entry is. -/
theorem mapM_some {α β : Type} (f : α → Option β) (g : α → β) (l : List α) (h : ∀ k ∈ l, f k = some (g k)) :
    l.mapM f = some (l.map g) := by
  induction l with
  | nil => rfl
  | cons a l ih =>
    rw [List.mapM_cons, h a (by simp), ih fun k hk => h k (by simp [hk])]
    rfl

/-- A list is refused where an entry is. -/
theorem mapM_none {α β : Type} (f : α → Option β) (l : List α) (h : ∃ k ∈ l, f k = none) : l.mapM f = none := by
  induction l with
  | nil => simp at h
  | cons a l ih =>
    rw [List.mapM_cons]
    obtain ⟨k, hk, hf⟩ := h
    rcases List.mem_cons.1 hk with rfl | hk
    · rw [hf]; rfl
    · rw [ih ⟨k, hk, hf⟩]
      cases f a <;> rfl

theorem guard_some {c : Prop} [Decidable c] (h : c) : (guard c : Option Unit) = some () := by simp [guard, h]

theorem guard_none {c : Prop} [Decidable c] (h : ¬ c) : (guard c : Option Unit) = none := by simp [guard, h]

theorem some_bind {α β : Type} (a : α) (f : α → Option β) : (some a >>= f) = f a := rfl

theorem none_bind {α β : Type} (f : α → Option β) : ((none : Option α) >>= f) = none := rfl

theorem readShowWhen_spec (n : Nat) : (n ≤ 2 → ∃ w, readShowWhen n = some w ∧ showWhenCode w = n) ∧ (2 < n →
    readShowWhen n = none) := by
  rcases n with _ | _ | _ | n <;> simp [readShowWhen, showWhenCode]

theorem readTreatment_spec (n : Nat) : (n ≤ 2 → ∃ w, readTreatment n = some w ∧ treatmentCode w = n) ∧ (2 < n →
    readTreatment n = none) := by
  rcases n with _ | _ | _ | n <;> simp [readTreatment, treatmentCode]

theorem readAlign_spec (n : Nat) : (n ≤ 2 → ∃ w, readAlign n = some w ∧ alignCode w = n) ∧ (2 < n → readAlign n = none) := by
  rcases n with _ | _ | _ | n <;> simp [readAlign, alignCode]

theorem readSymbol_spec (n : Nat) : (n ≤ 2 → ∃ w, readSymbol n = some w ∧ symbolCode w = n) ∧ (2 < n →
    readSymbol n = none) := by
  rcases n with _ | _ | _ | n <;> simp [readSymbol, symbolCode]

theorem readMinor_spec (n : Nat) : (n = 0 ∨ n = 2 → ∃ w, readMinor n = some w ∧ minorCode w = n) ∧ ((n ≠ 0 ∧ n ≠ 2) →
    readMinor n = none) := by
  rcases n with _ | _ | _ | n <;> simp [readMinor, minorCode]

theorem readRounding_spec (n : Nat) : (n ≤ 3 → ∃ w, readRounding n = some w ∧ roundingCode w = n) ∧ (3 < n →
    readRounding n = none) := by
  rcases n with _ | _ | _ | _ | n <;> simp [readRounding, roundingCode]

theorem rounding_ending_iff (w : Rounding) : w = .ending ↔ roundingCode w = 3 := by cases w <;> simp [roundingCode]

theorem readStock_spec (n : Nat) : (n ≤ 1 → readStock n = some (if n = 0 then .available else .soldOut)) ∧ (1 < n →
    readStock n = none) := by
  rcases n with _ | _ | n <;> simp [readStock]

theorem readPolicy_spec (n : Nat) : (n ≤ 1 → ∃ w, readPolicy n = some w ∧ policyCode w = n) ∧ (1 < n →
    readPolicy n = none) := by
  rcases n with _ | _ | n <;> simp [readPolicy, policyCode]

theorem readChannel_spec (n : Nat) : (2 < n → readChannel n = none) := by
  rcases n with _ | _ | _ | n <;> simp [readChannel]

/-! ### The item record (R8) -/

theorem readPrice_none (p : List Byte) (o : Nat) (h : 1 < u8 p o ∨ (u8 p o = 1 ∧ 999999 < u24 p (o+1))) :
    readPrice p o = none := by
  unfold readPrice
  rw [readFlag_eq]
  rcases h with h | ⟨h, h2⟩
  · rw [if_neg (by omega)]; rfl
  · rw [if_pos (by omega), some_bind, if_pos (by simpa using h), guard_none (by simp [Config.priceLimit]; omega)]; rfl

theorem readPrice_some (p : List Byte) (o : Nat) (h : ¬ (1 < u8 p o ∨ (u8 p o = 1 ∧ 999999 < u24 p (o+1)))) :
    readPrice p o = some (if u8 p o = 1 then some (u24 p (o+1)) else none) := by
  unfold readPrice
  rw [readFlag_eq, if_pos (by omega), some_bind]
  by_cases h1 : u8 p o = 1
  · rw [if_pos (by simpa using h1), guard_some (by simp [Config.priceLimit]; omega), if_pos h1]; rfl
  · rw [if_neg (by simpa using h1), if_neg h1]

theorem readComponent_none (p : List Byte) (own o : Nat) (h : 511 < u16 p o ∨ u16 p o = own ∨ u8 p (o+2) = 0 ∨
    9 < u8 p (o+2)) : readComponent p own o = none := by
  unfold readComponent
  rw [guard_none (by simp only [Config.itemIds]; omega)]; rfl

theorem readComponent_some (p : List Byte) (own o : Nat) (h : ¬ (511 < u16 p o ∨ u16 p o = own ∨ u8 p (o+2) = 0 ∨
    9 < u8 p (o+2))) : readComponent p own o = some ⟨u16 p o, u8 p (o+2)⟩ := by
  unfold readComponent
  rw [guard_some (by simp only [Config.itemIds]; omega)]; rfl

/-- The body of the item record in a payload that R8 does not refuse. -/
def bodyOf (p : List Byte) : ItemBody :=
  if u8 p 2 = 0 then .simple ⟨if u8 p 3 = 1 then some (u24 p 4) else none, if u8 p 7 = 1 then some (u24 p 8) else none,
     if u8 p 11 = 1 then some (u24 p 12) else none, if u8 p 15 = 1 then some (u24 p 16) else none⟩
  else .combo ((List.range (u8 p 0x13)).map fun n => ⟨u16 p (0x14 + 3 * n), u8 p (0x16 + 3 * n)⟩) (u24 p 0x20)

/-- R8 refuses a payload. -/
theorem parseItem_none (p : List Byte) (h : ItemRefused p) : parseItem p = none := by
  unfold parseItem
  by_cases h1 : u16 p 0 < Config.itemIds
  swap
  · rw [guard_none h1]; rfl
  rw [guard_some h1, some_bind, readFlag_eq]
  by_cases h2 : u8 p 0x23 ≤ 1
  swap
  · rw [if_neg h2]; rfl
  rw [if_pos h2, some_bind]
  simp only [Config.itemIds] at h1
  have hs : u8 p 2 = 0 → readSimple p = none := by
    intro h0
    rcases h with h | h | h | ⟨h, h'⟩ | ⟨h, h'⟩
    · omega
    · omega
    · omega
    · unfold readSimple
      obtain ⟨c, hc, hh⟩ := h'
      by_cases a0 : (1 < u8 p 3 ∨ (u8 p 3 = 1 ∧ 999999 < u24 p (3+1)))
      · rw [readPrice_none p 3 a0]; rfl
      by_cases a1 : (1 < u8 p 7 ∨ (u8 p 7 = 1 ∧ 999999 < u24 p (7+1)))
      · rw [readPrice_none p 7 a1, readPrice_some p 3 a0]; rfl
      by_cases a2 : (1 < u8 p 11 ∨ (u8 p 11 = 1 ∧ 999999 < u24 p (11+1)))
      · rw [readPrice_none p 11 a2, readPrice_some p 3 a0, readPrice_some p 7 a1]; rfl
      by_cases a3 : (1 < u8 p 15 ∨ (u8 p 15 = 1 ∧ 999999 < u24 p (15+1)))
      · rw [readPrice_none p 15 a3, readPrice_some p 3 a0, readPrice_some p 7 a1, readPrice_some p 11 a2]; rfl
      exfalso
      have : c = 0 ∨ c = 1 ∨ c = 2 ∨ c = 3 := by omega
      rcases this with rfl | rfl | rfl | rfl
      · exact a0 hh
      · exact a1 hh
      · exact a2 hh
      · exact a3 hh
    · omega
  have hc : u8 p 2 = 1 → readCombo p (u16 p 0) = none := by
    intro h0
    rcases h with h | h | h | ⟨h, h'⟩ | ⟨h, h'⟩
    · omega
    · omega
    · omega
    · omega
    · unfold readCombo
      by_cases a0 : 1 ≤ u8 p 0x13 ∧ u8 p 0x13 ≤ 4
      swap
      · rw [guard_none a0]; rfl
      rw [guard_some a0, some_bind]
      rcases h' with h' | h' | h' | ⟨n, hn, hh⟩
      · omega
      · omega
      · cases hm : (List.range (u8 p 0x13)).mapM fun k => readComponent p (u16 p 0) (0x14 + 3 * k) with
        | none => rfl
        | some l => rw [some_bind, guard_none (by simp only [Config.priceLimit]; omega)]; rfl
      · rw [mapM_none (fun k => readComponent p (u16 p 0) (0x14 + 3 * k)) _ ⟨n, by simpa using hn,
          readComponent_none _ _ _ (by rw [show 0x14 + 3 * n + 2 = 0x16 + 3 * n from by omega]; exact hh)⟩]; rfl
  rcases hk : u8 p 2 with _ | _ | n
  · show (readSimple p >>= _) = none
    rw [hs hk]; rfl
  · show (readCombo p _ >>= _) = none
    rw [hc hk]; rfl
  · rfl

/-- R8 does not refuse a payload: its record. -/
theorem parseItem_some (p : List Byte) (h : ¬ ItemRefused p) : parseItem p = some (u16 p 0, ⟨bodyOf p,
    if u8 p 0x23 = 1 then some (u8 p 0x24) else none⟩) := by
  unfold ItemRefused at h
  push Not at h
  obtain ⟨h0, h1, h2, h3, h4⟩ := h
  unfold parseItem
  rw [guard_some (by simp only [Config.itemIds]; omega), some_bind, readFlag_eq, if_pos h2, some_bind]
  have : u8 p 2 = 0 ∨ u8 p 2 = 1 := by omega
  rcases this with h | h
  · have g := h3 h
    rw [h]
    show (readSimple p >>= _) = _
    unfold readSimple
    have k : ∀ c, c < 4 → ¬ (1 < u8 p (3+4*c) ∨ (u8 p (3+4*c) = 1 ∧ 999999 < u24 p (3 + 4*c+1))) := fun c hc => by
      obtain ⟨g1, g2⟩ := g c hc
      rw [show 3 + 4 * c + 1 = 4 + 4 * c by omega]
      omega
    rw [readPrice_some p 3 (k 0 (by omega)), readPrice_some p 7 (k 1 (by omega)), readPrice_some p 11 (k 2 (by omega)),
        readPrice_some p 15 (k 3 (by omega))]
    unfold bodyOf
    rw [if_pos h]
    simp [some_bind]
  · obtain ⟨g1, g2, g3, g4⟩ := h4 h
    rw [h]
    show (readCombo p _ >>= _) = _
    have : readCombo p (u16 p 0) = some (bodyOf p) := by
      unfold readCombo
      rw [guard_some (by omega), some_bind,
          mapM_some (fun k => readComponent p (u16 p 0) (0x14 + 3 * k)) (fun n => ⟨u16 p (0x14 + 3 * n), u8 p (0x16 + 3 * n)⟩),
          some_bind, guard_some (by simp only [Config.priceLimit]; omega)]
      · unfold bodyOf; rw [if_neg (by omega)]; rfl
      · intro n hn
        obtain ⟨k1, k2, k3, k4⟩ := g4 n (by simpa using hn)
        rw [readComponent_some]
        · rw [show 0x14 + 3 * n + 2 = 0x16 + 3 * n by omega]
        · rw [show 0x14 + 3 * n + 2 = 0x16 + 3 * n by omega]; omega
    rw [this]
    simp [some_bind]

/-! ### The tile record (R18) -/

/-- R18 refuses a payload. -/
theorem parseTile_none (p : List Byte) (h : TileRefused p) : parseTile p = none := by
  unfold parseTile
  by_cases c1 : u8 p 0 < Config.pageCount ∧ u8 p 1 < Config.tilesPerPage
  swap
  · rw [guard_none c1]; rfl
  rw [guard_some c1, some_bind]
  by_cases c2 : (-2048 ≤ s16 p 3 ∧ s16 p 3 ≤ 4095 ∧ -2048 ≤ s16 p 5 ∧ s16 p 5 ≤ 4095)
  swap
  · rw [guard_none c2]; rfl
  rw [guard_some c2, some_bind]
  by_cases c3 : (1 ≤ u16 p 7 ∧ u16 p 7 ≤ 2048 ∧ 1 ≤ u16 p 9 ∧ u16 p 9 ≤ 2048)
  swap
  · rw [guard_none c3]; rfl
  rw [guard_some c3, some_bind, readFlag_eq]
  by_cases c4 : u8 p 0x0C ≤ 1
  swap
  · rw [if_neg c4]; rfl
  rw [if_pos c4, some_bind]
  by_cases c5 : decide (u8 p 0x0C = 1) = false ∨ u16 p 0x0D < Config.itemIds
  swap
  · rw [guard_none c5]; rfl
  rw [guard_some c5, some_bind, readFlag_eq]
  by_cases c6 : u8 p 0x0F ≤ 1
  swap
  · rw [if_neg c6]; rfl
  rw [if_pos c6, some_bind]
  simp only [Config.pageCount, Config.tilesPerPage, Config.itemIds, decide_eq_false_iff_not] at c1 c5
  by_cases c7 : readTileBody p (decide (u8 p 0x0C = 1)) (decide (u8 p 0x0F = 1)) = none
  · rw [c7]; rfl
  obtain ⟨body, c7'⟩ := Option.ne_none_iff_exists'.1 c7
  rw [c7', some_bind, readFlag_eq]
  by_cases c8 : u8 p 0x15 ≤ 1
  swap
  · rw [if_neg c8]; rfl
  rw [if_pos c8, some_bind]
  by_cases c9 : u8 p 0x1B ≤ 2
  swap
  · rw [(readShowWhen_spec _).2 (by omega)]; rfl
  obtain ⟨w, hw, _⟩ := (readShowWhen_spec _).1 c9
  rw [hw, some_bind]
  by_cases c10 : u8 p 0x1C ≤ 2
  swap
  · rw [(readTreatment_spec _).2 (by omega)]; rfl
  exfalso
  apply c7
  unfold readTileBody
  rcases hk : u8 p 2 with _ | _ | _ | n
  · show readPhotoBody _ _ = none
    unfold readPhotoBody
    rw [guard_none]; rfl
    unfold TileRefused at h
    omega
  · show readPriceBody _ _ _ = none
    unfold readPriceBody
    by_cases d1 : (decide (u8 p 12 = 1)) = true ∧ (decide (u8 p 15 = 1)) = false
    swap
    · rw [guard_none d1]; rfl
    rw [guard_some d1, some_bind]
    by_cases d2 : u8 p 0x1E ≤ 3
    swap
    · rw [guard_none d2]; rfl
    rw [guard_some d2, some_bind]
    by_cases d3 : u8 p 0x22 ≤ 2
    swap
    · rw [(readAlign_spec _).2 (by omega)]; rfl
    obtain ⟨w, hw, _⟩ := (readAlign_spec _).1 d3
    rw [hw, some_bind, guard_none]; rfl
    unfold TileRefused at h
    simp only [decide_eq_false_iff_not, decide_eq_true_eq] at d1
    omega
  · show (if decide (u8 p 15 = 1) = true then none else some TileBody.panel) = none
    rw [if_pos]
    unfold TileRefused at h
    simp only [decide_eq_true_eq]
    omega
  · rfl

/-- R18 does not refuse a payload: its record. -/
theorem parseTile_some (p : List Byte) (h : ¬ TileRefused p) : ∃ t, parseTile p = some (u8 p 0, u8 p 1, t) ∧ (t.x = s16 p 3 ∧
    t.y = s16 p 5 ∧ t.w = u16 p 7 ∧ t.h = u16 p 9 ∧ t.z = byteAt p 0x0B ∧
          t.item = (if u8 p 0x0C = 1 then some (u16 p 0x0D) else none) ∧
          t.fill = (if u8 p 0x15 = 1 then some ⟨colorAt p 0x16, byteAt p 0x19⟩ else none) ∧
          t.opacity = byteAt p 0x1A ∧ showWhenCode t.showWhen = u8 p 0x1B ∧ treatmentCode t.treatment = u8 p 0x1C ∧
          t.blink = byteAt p 0x1D) ∧
        (u8 p 2 = 0 →
          t.body = .photo (if u8 p 0x0F = 1 then some (u8 p 0x10) else none) (s16 p 0x11) (s16 p 0x13)) ∧
        (u8 p 2 = 1 →
          ∃ align, alignCode align = u8 p 0x22 ∧
            t.body = .price ⟨u8 p 0x1E, colorAt p 0x1F, align, byteAt p 0x23, u16 p 0x24, u8 p 0x26⟩) ∧
        (u8 p 2 = 2 → t.body = .panel) := by
  unfold TileRefused at h
  push Not at h
  obtain ⟨h0, h1, h2, h3, h4, h5, h6, h7, h8, h9, h10, h11, h12, h13, h14, h15, h16, h17, h18, h19, h20⟩ := h
  obtain ⟨w, hw, hw2⟩ := (readShowWhen_spec _).1 h17
  obtain ⟨tr, htr, htr2⟩ := (readTreatment_spec _).1 h18
  have hb : ∃ b, readTileBody p (decide (u8 p 0x0C = 1)) (decide (u8 p 0x0F = 1)) = some b ∧ (u8 p 2 = 0 →
          b = .photo (if u8 p 0x0F = 1 then some (u8 p 0x10) else none) (s16 p 0x11) (s16 p 0x13)) ∧
        (u8 p 2 = 1 →
          ∃ align, alignCode align = u8 p 0x22 ∧
            b = .price ⟨u8 p 0x1E, colorAt p 0x1F, align, byteAt p 0x23, u16 p 0x24, u8 p 0x26⟩) ∧
        (u8 p 2 = 2 → b = .panel) := by
    have : u8 p 2 = 0 ∨ u8 p 2 = 1 ∨ u8 p 2 = 2 := by omega
    unfold readTileBody
    rcases this with h | h | h
    · rw [h]
      show ∃ b, readPhotoBody _ _ = _ ∧ _
      unfold readPhotoBody
      rw [guard_some (by omega), some_bind]
      refine ⟨_, rfl, fun _ => ?_, fun h => absurd h (by decide), fun h => absurd h (by decide)⟩
      simp
    · rw [h]
      show ∃ b, readPriceBody _ _ _ = _ ∧ _
      unfold readPriceBody
      obtain ⟨al, hal, hal2⟩ := (readAlign_spec _).1 (by omega : u8 p 0x22 ≤ 2)
      rw [guard_some (by simp only [decide_eq_false_iff_not, decide_eq_true_eq]; omega), some_bind, guard_some (by omega),
          some_bind, hal, some_bind, guard_some (by omega), some_bind]
      exact ⟨_, rfl, fun h => absurd h (by decide), fun _ => ⟨al, hal2, rfl⟩, fun h => absurd h (by decide)⟩
    · rw [h]
      show ∃ b, (if decide (u8 p 15 = 1) = true then none else some TileBody.panel) = _ ∧ _
      rw [if_neg (by simp only [decide_eq_true_eq]; omega)]
      exact ⟨_, rfl, fun h => absurd h (by decide), fun h => absurd h (by decide), fun _ => rfl⟩
  have e1 : decide (u8 p 0x0C = 1) = false ∨ u16 p 0x0D < Config.itemIds := by
    clear hb
    simp only [Config.itemIds, decide_eq_false_iff_not]
    omega
  have e2 : u8 p 0x0F ≤ 1 := by omega
  have e3 : u8 p 0x15 ≤ 1 := by omega
  have e4 : u8 p 0x0C ≤ 1 := by omega
  obtain ⟨b, hb, hb'⟩ := hb
  unfold parseTile
  rw [guard_some (by simp only [Config.pageCount, Config.tilesPerPage]; clear hb hb'; omega), some_bind,
      guard_some (by clear hb hb'; omega), some_bind, guard_some (by clear hb hb'; omega), some_bind, readFlag_eq, if_pos e4,
      some_bind, guard_some e1, some_bind, readFlag_eq, if_pos e2, some_bind, hb, some_bind,  readFlag_eq, if_pos e3,
      some_bind, hw, some_bind, htr, some_bind]
  refine ⟨_, rfl, ⟨rfl, rfl, rfl, rfl, rfl, by simp, by simp, rfl, hw2, htr2, rfl⟩, hb'⟩

/-! ### The format and the schedule (R12, R22) -/

/-- R12 refuses a payload. -/
theorem parseFormat_none (p : List Byte) (h : FormatRefused p) : parseFormat p = none := by
  unfold parseFormat
  by_cases c1 : u8 p 0 ≤ 2
  swap
  · rw [(readSymbol_spec _).2 (by omega)]; rfl
  obtain ⟨w1, h1, h1'⟩ := (readSymbol_spec _).1 c1
  rw [h1, some_bind]
  by_cases c2 : u8 p 1 = 0 ∨ u8 p 1 = 2
  swap
  · rw [(readMinor_spec _).2 (by omega)]; rfl
  obtain ⟨w2, h2, h2'⟩ := (readMinor_spec _).1 c2
  rw [h2, some_bind, readFlag_eq]
  by_cases c3 : u8 p 2 ≤ 1
  swap
  · rw [if_neg c3]; rfl
  rw [if_pos c3, some_bind]
  by_cases c4 : u8 p 3 ≤ 3
  swap
  · rw [(readRounding_spec _).2 (by omega)]; rfl
  obtain ⟨w4, h4, h4'⟩ := (readRounding_spec _).1 c4
  rw [h4, some_bind]
  by_cases c5 : u8 p 4 ∈ priceSteps
  swap
  · rw [guard_none c5]; rfl
  rw [guard_some c5, some_bind]
  by_cases c6 : u8 p 5 < u8 p 4
  swap
  · rw [guard_none c6]; rfl
  rw [guard_some c6, some_bind]
  by_cases c7 : u8 p 5 = 0 ∨ w4 = .ending
  swap
  · rw [guard_none c7]; rfl
  rw [guard_some c7, some_bind, readFlag_eq]
  by_cases c8 : u8 p 6 ≤ 1
  swap
  · rw [if_neg c8]; rfl
  rw [if_pos c8, some_bind, guard_none]; rfl
  rcases h with h | h | h | h | h | h | h | h | h
  all_goals first | omega | exact absurd c5 h | skip
  rw [rounding_ending_iff] at c7; omega

/-- R12 does not refuse a payload: its format. -/
theorem parseFormat_some (p : List Byte) (h : ¬ FormatRefused p) : ∃ f, parseFormat p = some f ∧ FormatInRange f ∧
    symbolCode f.symbol = u8 p 0 ∧ minorCode f.minor = u8 p 1 ∧
          (f.shortForm = true ↔ u8 p 2 = 1) ∧ roundingCode f.rounding = u8 p 3 ∧ f.step = u8 p 4 ∧ f.ending = u8 p 5 ∧
          (f.taxInclusive = true ↔ u8 p 6 = 1) ∧ f.taxRate = u16 p 7 := by
  unfold FormatRefused at h
  push Not at h
  obtain ⟨h1, h2, h3, h4, h5, h6, h7, h8, h9⟩ := h
  obtain ⟨w1, k1, k1'⟩ := (readSymbol_spec _).1 h1
  obtain ⟨w2, k2, k2'⟩ := (readMinor_spec _).1 (by omega : u8 p 1 = 0 ∨ u8 p 1 = 2)
  obtain ⟨w4, k4, k4'⟩ := (readRounding_spec _).1 h4
  have c7 : u8 p 5 = 0 ∨ w4 = .ending := by rw [rounding_ending_iff]; omega
  unfold parseFormat
  rw [k1, some_bind, k2, some_bind, readFlag_eq, if_pos h3, some_bind, k4, some_bind,
      guard_some (show u8 p 4 ∈ priceSteps from h5), some_bind, guard_some h6, some_bind, guard_some c7, some_bind,
      readFlag_eq, if_pos h8, some_bind, guard_some h9, some_bind]
  refine ⟨_, rfl, ⟨h5, h6, fun h => ?_, h9⟩, k1', k2', by simp, k4', rfl, rfl, by simp, rfl⟩
  rcases c7 with c | c
  · exact absurd c h
  · exact c

theorem strictlyAscending_iff (l : List SchedEntry) :
    strictlyAscending l = true ↔ List.Pairwise (fun a b => a.start < b.start) l := by
  induction l with
  | nil => simp [strictlyAscending]
  | cons e l ih =>
    rw [strictlyAscending, List.pairwise_cons, Bool.and_eq_true, ih, List.all_eq_true]
    simp

theorem readSchedEntry_none (p : List Byte) (n : Nat) (h : 1439 < u16 p (1 + 5 * n) ∨ 7 < u8 p (3 + 5 * n) ∨
    3 < u8 p (4 + 5 * n)) : readSchedEntry p (1 + 5 * n) = none := by
  unfold readSchedEntry
  rw [show 1 + 5 * n + 2 = 3 + 5 * n by omega, show 1 + 5 * n + 3 = 4 + 5 * n by omega,
      guard_none (by simp only [Config.pageCount]; omega)]; rfl

theorem readSchedEntry_some (p : List Byte) (n : Nat) (h : ¬ (1439 < u16 p (1 + 5 * n) ∨ 7 < u8 p (3 + 5 * n) ∨
    3 < u8 p (4 + 5 * n))) : readSchedEntry p (1 + 5 * n) = some ⟨u16 p (1 + 5 * n), u8 p (3 + 5 * n), u8 p (4 + 5 * n),
    byteAt p (5 + 5 * n)⟩ := by
  unfold readSchedEntry
  rw [show 1 + 5 * n + 2 = 3 + 5 * n by omega, show 1 + 5 * n + 3 = 4 + 5 * n by omega,
      show 1 + 5 * n + 4 = 5 + 5 * n by omega, guard_some (by simp only [Config.pageCount]; omega)]; rfl

/-- The schedule in a payload that R22 does not refuse. -/
def scheduleOf (p : List Byte) : List SchedEntry := (List.range (u8 p 0)).map fun n => ⟨u16 p (1 + 5 * n), u8 p (3 + 5 * n),
    u8 p (4 + 5 * n), byteAt p (5 + 5 * n)⟩

theorem scheduleOf_pairwise (p : List Byte) : List.Pairwise (fun a b => a.start < b.start) (scheduleOf p) ↔ ∀ n m, n < m →
    m < u8 p 0 → u16 p (1 + 5 * n) < u16 p (1 + 5 * m) := by
  rw [List.pairwise_iff_getElem]
  simp only [scheduleOf, List.length_map, List.length_range, List.getElem_map, List.getElem_range]
  constructor
  · intro h n m h1 h2; exact h n m (by omega) h2 h1
  · intro h n m h1 h2 h3; exact h n m h3 h2

/-- R22 refuses a payload. -/
theorem parseSchedule_none (p : List Byte) (h : ScheduleRefused p) : parseSchedule p = none := by
  unfold parseSchedule
  by_cases c1 : u8 p 0 ≤ 16
  swap
  · rw [guard_none c1]; rfl
  rw [guard_some c1, some_bind]
  by_cases c2 : ∃ n, n < u8 p 0 ∧ (1439 < u16 p (1 + 5 * n) ∨ 7 < u8 p (3 + 5 * n) ∨ 3 < u8 p (4 + 5 * n))
  · obtain ⟨n, hn, hh⟩ := c2
    rw [mapM_none (fun k => readSchedEntry p (1 + 5 * k)) _ ⟨n, by simpa using hn, readSchedEntry_none p n hh⟩]; rfl
  rw [mapM_some (fun k => readSchedEntry p (1 + 5 * k)) _ _ (fun n hn => readSchedEntry_some p n fun hh => c2 ⟨n,
      by simpa using hn, hh⟩), some_bind, guard_none]
  · rfl
  · rcases h with h | h | ⟨n, m, h1, h2, h3⟩
    · omega
    · exact absurd h c2
    · rw [strictlyAscending_iff]
      intro hh
      have := (scheduleOf_pairwise p).1 hh n m h1 h2
      omega

/-- R22 does not refuse a payload: its schedule. -/
theorem parseSchedule_some (p : List Byte) (h : ¬ ScheduleRefused p) : parseSchedule p = some (scheduleOf p) ∧
    ScheduleInRange (scheduleOf p) := by
  unfold ScheduleRefused at h
  push Not at h
  obtain ⟨h1, h2, h3⟩ := h
  have hp : List.Pairwise (fun a b => a.start < b.start) (scheduleOf p) := (scheduleOf_pairwise p).2 h3
  constructor
  · have entries : ∀ n ∈ List.range (u8 p 0), readSchedEntry p (1 + 5 * n) = _ := fun n hn =>
      readSchedEntry_some p n (by have := h2 n (by simpa using hn); omega)
    unfold parseSchedule
    rw [guard_some h1, some_bind, mapM_some (fun k => readSchedEntry p (1 + 5 * k)) _ _ entries, some_bind, guard_some]
    · rfl
    · rw [strictlyAscending_iff]; exact hp
  · refine ⟨by simpa [scheduleOf] using h1, ?_, hp⟩
    intro e he
    simp only [scheduleOf, List.mem_map, List.mem_range] at he
    obtain ⟨n, hn, rfl⟩ := he
    have := h2 n hn
    simp only; omega

/-! ### The stock pairs (R24) -/

/-- An entry that no pair names stands as it was. -/
theorem writePairs_other {α : Type} (l : List (Nat × α)) (t : List α) (id : Nat) (h : ∀ e ∈ l, e.1 ≠ id) :
    (writePairs l t)[id]? = t[id]? := by
  induction l generalizing t with
  | nil => rfl
  | cons e l ih =>
    obtain ⟨i, a⟩ := e
    rw [writePairs, ih _ fun e he => h e (by simp [he])]
    have : i ≠ id := h (i, a) (by simp)
    simp [this]

theorem writePairs_append {α : Type} (l l' : List (Nat × α)) (t : List α) :
    writePairs (l ++ l') t = writePairs l' (writePairs l t) := by
  induction l generalizing t with
  | nil => rfl
  | cons e l ih => obtain ⟨i, a⟩ := e; exact ih _

/-- The pairs in a payload that R24 does not refuse. -/
def pairsOf (p : List Byte) : List (Nat × Stock) := (List.range (u8 p 0)).map fun n => (u16 p (1 + 3 * n),
    if u8 p (3 + 3 * n) = 0 then .available else .soldOut)

/-- R24 refuses a payload. -/
theorem parseStock_none (p : List Byte) (h : u8 p 0 = 0 ∨ 48 < u8 p 0 ∨ ∃ n, n < u8 p 0 ∧ (511 < u16 p (1 + 3 * n) ∨
    1 < u8 p (3 + 3 * n))) : parseStock p = none := by
  unfold parseStock
  by_cases c1 : 1 ≤ u8 p 0 ∧ u8 p 0 ≤ 48
  swap
  · rw [guard_none c1]; rfl
  rw [guard_some c1, some_bind]
  rcases h with h | h | ⟨n, hn, hh⟩
  · omega
  · omega
  · refine mapM_none (fun k => readStockPair p (1 + 3 * k)) _ ⟨n, by simpa using hn, ?_⟩
    unfold readStockPair
    by_cases c2 : u16 p (1 + 3 * n) < Config.itemIds
    swap
    · rw [guard_none c2]; rfl
    rw [guard_some c2, some_bind]
    simp only [Config.itemIds] at c2
    rw [show 1 + 3 * n + 2 = 3 + 3 * n by omega, (readStock_spec _).2 (by omega)]; rfl

/-- R24 does not refuse a payload: its pairs. -/
theorem parseStock_some (p : List Byte) (h : ¬ (u8 p 0 = 0 ∨ 48 < u8 p 0 ∨ ∃ n, n < u8 p 0 ∧ (511 < u16 p (1 + 3 * n) ∨
    1 < u8 p (3 + 3 * n)))) : parseStock p = some (pairsOf p) := by
  push Not at h
  obtain ⟨h1, h2, h3⟩ := h
  unfold parseStock
  rw [guard_some (by omega), some_bind]
  refine mapM_some (fun k => readStockPair p (1 + 3 * k)) _ _ fun n hn => ?_
  obtain ⟨h4, h5⟩ := h3 n (by simpa using hn)
  unfold readStockPair
  rw [guard_some (by simp only [Config.itemIds]; omega), some_bind, show 1 + 3 * n + 2 = 3 + 3 * n by omega,
      (readStock_spec _).1 h5]; rfl

/-! ### The settings (R185) -/

theorem readMask_none (p : List Byte) (h : ∃ n, n < 5 ∧ 1 < u8 p (14 + n)) : readMask p 14 = none := by
  unfold readMask
  simp only [readFlag_eq]
  obtain ⟨n, hn, hh⟩ := h
  by_cases c0 : u8 p 14 ≤ 1
  swap
  · rw [if_neg c0]; rfl
  rw [if_pos c0, some_bind]
  by_cases c1 : u8 p 15 ≤ 1
  swap
  · rw [if_neg c1]; rfl
  rw [if_pos c1, some_bind]
  by_cases c2 : u8 p 16 ≤ 1
  swap
  · rw [if_neg c2]; rfl
  rw [if_pos c2, some_bind]
  by_cases c3 : u8 p 17 ≤ 1
  swap
  · rw [if_neg c3]; rfl
  rw [if_pos c3, some_bind]
  by_cases c4 : u8 p 18 ≤ 1
  swap
  · rw [if_neg c4]; rfl
  exfalso
  have : n = 0 ∨ n = 1 ∨ n = 2 ∨ n = 3 ∨ n = 4 := by omega
  rcases this with rfl | rfl | rfl | rfl | rfl <;> simp only [Nat.reduceAdd] at hh <;> omega

/-- The audit mask in a CONFIG_PUT payload. -/
def maskOf (p : List Byte) : AuditMask := ⟨u8 p 14 = 1, u8 p 15 = 1, u8 p 16 = 1, u8 p 17 = 1, u8 p 18 = 1⟩

theorem readMask_some (p : List Byte) (h : ¬ ∃ n, n < 5 ∧ 1 < u8 p (14 + n)) : readMask p 14 = some (maskOf p) := by
  push Not at h
  unfold readMask
  simp only [readFlag_eq]
  rw [if_pos (h 0 (by omega)), some_bind, if_pos (h 1 (by omega)), some_bind, if_pos (h 2 (by omega)), some_bind,
      if_pos (h 3 (by omega)), some_bind, if_pos (h 4 (by omega)), some_bind]; rfl

/-- R185 refuses a payload. -/
theorem parseSettings_none (p : List Byte) (h : SettingsRefused p) : parseSettings p = none := by
  unfold parseSettings
  by_cases c1 : u16 p 0 ≤ 8191 ∧ u16 p 2 ≤ 4095
  swap
  · rw [guard_none c1]; rfl
  rw [guard_some c1, some_bind]
  by_cases c2 : 1 ≤ u16 p 4 ∧ u16 p 4 ≤ 2048 ∧ 1 ≤ u16 p 6 ∧ u16 p 6 ≤ 2048
  swap
  · rw [guard_none c2]; rfl
  rw [guard_some c2, some_bind]
  by_cases c3 : 24 ≤ u8 p 11 ∧ u8 p 11 ≤ 60
  swap
  · rw [guard_none c3]; rfl
  rw [guard_some c3, some_bind]
  by_cases c4 : 20 ≤ u8 p 12 ∧ u8 p 12 ≤ 200
  swap
  · rw [guard_none c4]; rfl
  rw [guard_some c4, some_bind]
  by_cases c5 : u8 p 13 ≤ 1
  swap
  · rw [(readPolicy_spec _).2 (by omega)]; rfl
  obtain ⟨w, hw, hw'⟩ := (readPolicy_spec _).1 c5
  rw [hw, some_bind]
  by_cases c6 : ∃ n, n < 5 ∧ 1 < u8 p (14 + n)
  · rw [readMask_none p c6]; rfl
  rw [readMask_some p c6, some_bind, guard_none]; rfl
  rcases h with h | h | h | h | h | h | h | h | h | h | h | h | h
  all_goals first | omega | exact absurd h c6

theorem ofNat_u8 (p : List Byte) (o : Nat) : BitVec.ofNat 8 (u8 p o) = byteAt p o := by simp [u8]

theorem put16_u16 (p : List Byte) (o : Nat) : put16 (u16 p o) = [byteAt p o, byteAt p (o + 1)] := by
  have h1 : u8 p o < 256 := (byteAt p o).isLt
  have h2 : u8 p (o+1) < 256 := (byteAt p (o+1)).isLt
  unfold put16 u16
  congr 1
  · rw [show (u8 p o * 256 + u8 p (o+1)) / 256 = u8 p o by omega, ofNat_u8]
  · congr 1
    apply BitVec.eq_of_toNat_eq
    simp only [BitVec.toNat_ofNat]
    show _ = u8 p (o+1)
    omega

theorem putFlag_u8 (p : List Byte) (o : Nat) (h : u8 p o ≤ 1) : putFlag (decide (u8 p o = 1)) = [byteAt p o] := by
  rcases flag_cases (byteAt p o) with hb | hb | ⟨h0, h1, h2⟩
  · have : u8 p o = 0 := by simp [u8, hb]
    simp [putFlag, this, hb]
  · have : u8 p o = 1 := by simp [u8, hb]
    simp [putFlag, this, hb]
  · simp only [u8] at h; omega

theorem list_of_length_22 (p : List Byte) (h : p.length = 22) : p = (List.range 22).map (byteAt p) := by
  apply List.ext_getElem
  · simpa using h
  · intro i h1 h2
    simp [byteAt, h1]

/-- R185 does not refuse a payload: its settings, which QUERY NODE sends as they came. -/
theorem parseSettings_some (p : List Byte) (hl : p.length = 22) (h : ¬ SettingsRefused p) : ∃ n, parseSettings p = some n ∧
    SettingsInRange n ∧ encodeSettings n = p := by
  unfold SettingsRefused at h
  push Not at h
  obtain ⟨h1, h2, h3, h4, h5, h6, h7, h8, h9, h10, h11, h12, h13⟩ := h
  obtain ⟨w, hw, hw'⟩ := (readPolicy_spec _).1 h11
  have hm : ¬ ∃ n, n < 5 ∧ 1 < u8 p (14 + n) := by push Not; exact h12
  unfold parseSettings
  rw [guard_some ⟨h1, h2⟩, some_bind, guard_some (by omega), some_bind, guard_some (by omega), some_bind,
      guard_some (by omega), some_bind, hw, some_bind, readMask_some p hm, some_bind, guard_some (by omega), some_bind]
  refine ⟨_, rfl, ?_, ?_⟩
  · have : 1 ≤ (byteAt p 20).toNat := by have : u8 p 20 ≠ 0 := h13; unfold u8 at this; omega
    exact ⟨h1, h2, Nat.pos_of_ne_zero h3, h4, Nat.pos_of_ne_zero h5, h6, h7, h8, h9, h10, this⟩
  · conv_rhs => rw [list_of_length_22 p hl]
    unfold encodeSettings maskOf
    simp only [put16_u16, hw', put8, ofNat_u8]
    rw [putFlag_u8 _ _ (h12 0 (by omega)), putFlag_u8 _ _ (h12 1 (by omega)), putFlag_u8 _ _ (h12 2 (by omega)),
        putFlag_u8 _ _ (h12 3 (by omega)), putFlag_u8 _ _ (h12 4 (by omega))]
    rfl

/-! ### The gamma entries (R159) -/

/-- R159 refuses a payload. -/
theorem parseGamma_none (p : List Byte) (h : GammaRefused p) : parseGamma p = none := by
  unfold parseGamma
  by_cases c0 : readChannel (u8 p 0) = none
  · rw [c0]; rfl
  obtain ⟨ch, hch⟩ := Option.ne_none_iff_exists'.1 c0
  rw [hch, some_bind]
  by_cases c1 : 1 ≤ u8 p 3 ∧ u8 p 3 ≤ 96 ∧ u16 p 1 ≤ 255 ∧ u16 p 1 + u8 p 3 ≤ 256
  swap
  · rw [guard_none c1]; rfl
  rw [guard_some c1, some_bind]
  rcases h with h | h | h | h | h | ⟨n, hn, hh⟩
  · exact absurd (readChannel_spec _ h) c0
  · omega
  · omega
  · omega
  · omega
  · rw [mapM_none]
    · rfl
    · refine ⟨n, by simpa using hn, ?_⟩
      rw [guard_none (by omega)]; rfl

/-- The entries in a payload that R159 does not refuse. -/
def codesOf (p : List Byte) : List PanelCode := (List.range (u8 p 3)).map fun n => BitVec.ofNat 10 (u16 p (4 + 2 * n))

/-- R159 does not refuse a payload: its channel, start and entries. -/
theorem parseGamma_some (p : List Byte) (h : ¬ GammaRefused p) : ∃ ch, readChannel (u8 p 0) = some ch ∧
    parseGamma p = some (ch, u16 p 1, codesOf p) := by
  unfold GammaRefused at h
  push Not at h
  obtain ⟨h1, h2, h3, h4, h5, h6⟩ := h
  have : ∃ ch, readChannel (u8 p 0) = some ch := by
    rcases hk : u8 p 0 with _ | _ | _ | n
    · exact ⟨_, rfl⟩
    · exact ⟨_, rfl⟩
    · exact ⟨_, rfl⟩
    · omega
  obtain ⟨ch, hch⟩ := this
  refine ⟨ch, hch, ?_⟩
  unfold parseGamma
  rw [hch, some_bind, guard_some (by omega), some_bind, mapM_some (g := fun n => BitVec.ofNat 10 (u16 p (4 + 2 * n)))]
  · rfl
  · intro n hn
    have := h6 n (by simpa using hn)
    rw [guard_some (by omega)]; rfl

/-- Each index of a run holds its entry, every other index what it held. -/
theorem writeRun_getElem {α : Type} (es l : List α) (st i : Nat) (h : st + es.length ≤ l.length) :
    (writeRun st es l)[i]? = if st ≤ i ∧ i < st + es.length then es[i - st]? else l[i]? := by
  induction es generalizing l st with
  | nil => simp [writeRun]
  | cons e es ih =>
    rw [writeRun, ih _ _ (by simpa [Nat.add_assoc, Nat.add_comm 1] using h)]
    simp only [List.length_cons] at h ⊢
    by_cases h1 : i = st
    · subst h1
      rw [if_neg (by omega), if_pos (by omega), List.getElem?_set_self (by omega)]
      simp
    · by_cases h2 : st + 1 ≤ i ∧ i < st + 1 + es.length
      · rw [if_pos h2, if_pos (by omega), show i - st = (i - (st+1)) + 1 by omega, List.getElem?_cons_succ]
      · rw [if_neg h2, if_neg (by omega), List.getElem?_set_ne (by omega)]

end Sys2Proof.Machine
end

