-- ==== Sys2Proof/Laws/Ranges.lean ====
section
/-! SUPPORT. Records that pass their range tests stand in their ranges, and what a bank and a frame context keep. -/

namespace Sys2Proof.Machine

/-- A record that ITEM_PUT does not refuse stands in the ranges of R4 to R7. -/
theorem parseItem_inRange {p : List Byte} {e : Nat × ItemRec} (h : parseItem p = some e) : ItemInRange e.1 e.2 := by
  by_cases hr : ItemRefused p
  · rw [parseItem_none p hr] at h; cases h
  rw [parseItem_some p hr] at h
  cases h
  unfold ItemRefused at hr
  push Not at hr
  obtain ⟨h0, h1, h2, h3, h4⟩ := hr
  refine ⟨by simp only; omega, ?_, ?_⟩
  · intro id hid
    simp only at hid
    split at hid <;> cases hid
    exact (byteAt p 0x24).isLt
  · simp only [bodyOf]
    split
    · next hk =>
      split at hk <;> cases hk
      next h2 =>
        intro c hc v hv
        have hp := (h3 h2 c hc).2
        have : c = 0 ∨ c = 1 ∨ c = 2 ∨ c = 3 := by omega
        rcases this with rfl | rfl | rfl | rfl <;> simp only [columnGet] at hv <;> split at hv <;> cases hv <;>
          exact hp (by assumption)
    · next hk =>
      split at hk <;> cases hk
      next hne =>
        obtain ⟨g1, g2, g3, g4⟩ := h4 (by omega)
        refine ⟨by simp; omega, by simpa using g2, g3, ?_⟩
        intro c hc
        simp only [List.mem_map, List.mem_range] at hc
        obtain ⟨n, hn, rfl⟩ := hc
        obtain ⟨k1, k2, k3, k4⟩ := g4 n hn
        refine ⟨?_, k2, ?_, k4⟩
        · simp only; omega
        · simp only; omega

/-- A record that TILE_PUT does not refuse stands in the ranges of R13 to R17. -/
theorem parseTile_inRange {p : List Byte} {e : Nat × Nat × TileRec} (h : parseTile p = some e) :
    TileInRange e.1 e.2.1 e.2.2 := by
  by_cases hr : TileRefused p
  · rw [parseTile_none p hr] at h; cases h
  obtain ⟨t, ht, ⟨hx, hy, hw, hh, -, hi, -⟩, b0, b1, b2⟩ := parseTile_some p hr
  rw [ht] at h
  cases h
  unfold TileRefused at hr
  push Not at hr
  obtain ⟨h0, h1, h2, h3, h4, h5, h6, h7, h8, h9, h10, h11, h12, h13, h14, h15, h16, h17, h18, h19, h20⟩ := hr
  refine ⟨by simp only; omega, by simp only; omega, by simp only [hx]; omega, by simp only [hx]; omega,
    by simp only [hy]; omega, by simp only [hy]; omega, by simp only [hw]; omega, by simp only [hw]; omega,
    by simp only [hh]; omega, by simp only [hh]; omega, ?_, ?_⟩
  · intro id hid
    simp only [hi] at hid
    split at hid <;> cases hid
    next hp => have := h12 hp; omega
  · have hk : u8 p 2 = 0 ∨ u8 p 2 = 1 ∨ u8 p 2 = 2 := by omega
    rcases hk with hk | hk | hk
    · simp only [b0 hk]
      refine ⟨?_, h16 hk⟩
      intro id hid
      split at hid <;> cases hid
      exact (byteAt p 0x10).isLt
    · obtain ⟨align, -, hb⟩ := b1 hk
      obtain ⟨k1, -, k2, k3⟩ := h20 hk
      simp only [hb]
      refine ⟨?_, k1, k2, k3⟩
      have := h13 hk
      rw [hi, if_pos (by omega)]
      rfl
    · simp only [b2 hk]

theorem parseFormat_inRange {p : List Byte} {f : PriceFormat} (h : parseFormat p = some f) : FormatInRange f := by
  by_cases hr : FormatRefused p
  · rw [parseFormat_none p hr] at h; cases h
  · obtain ⟨g, hg, hin, -⟩ := parseFormat_some p hr
    rw [hg] at h
    cases h
    exact hin

theorem parseSchedule_inRange {p : List Byte} {l : List SchedEntry} (h : parseSchedule p = some l) : ScheduleInRange l := by
  by_cases hr : ScheduleRefused p
  · rw [parseSchedule_none p hr] at h; cases h
  · rw [(parseSchedule_some p hr).1] at h
    cases h
    exact (parseSchedule_some p hr).2

theorem parseSettings_inRange {p : List Byte} {n : NodeSettings} (hl : p.length = 22) (h : parseSettings p = some n) :
    SettingsInRange n := by
  by_cases hr : SettingsRefused p
  · rw [parseSettings_none p hr] at h; cases h
  · obtain ⟨m, hm, hin, -⟩ := parseSettings_some p hl hr
    rw [hm] at h
    cases h
    exact hin

/-- A highlight that HIGHLIGHT does not refuse stands in the ranges of R132. -/
theorem parseHighlight_inRange {p : List Byte} {n : Nat} {h : Highlight} (hp : parseHighlight p = some (n, some h)) :
    HighlightInRange h := by
  unfold parseHighlight at hp
  by_cases h0 : u8 p 0 ≤ 1
  · rw [guard_some h0, some_bind] at hp
    split at hp
    · by_cases hr : u8 p 2 < Config.tilesPerPage ∧ u8 p 3 ≤ 31 ∧ 1 ≤ u8 p 4 ∧ u8 p 4 ≤ 16
      · rw [guard_some hr, some_bind] at hp
        cases hp
        simp only [Config.tilesPerPage] at hr
        exact ⟨by simp only; omega, hr.2⟩
      · rw [guard_none hr] at hp; cases hp
    · cases hp
    · cases hp
  · rw [guard_none h0] at hp; cases hp

/-- An override that FORCE does not refuse stands in the ranges of R56. -/
theorem parseForce_inRange {p : List Byte} {o : Override} (hp : parseForce p = some (some o)) :
    o.page ≤ 7 ∧ o.column ≤ 3 := by
  unfold parseForce at hp
  by_cases hr : u8 p 1 < Config.pageCount ∧ u8 p 2 ≤ 3
  · rw [guard_some hr] at hp
    simp only [Config.pageCount] at hr
    split at hp
    · cases hp; exact ⟨by simp only; omega, hr.2⟩
    · cases hp; exact ⟨by simp only; omega, hr.2⟩
    · cases hp
    · cases hp
  · rw [guard_none hr] at hp
    split at hp <;> cases hp

/-- The empty bank stands in its ranges (R2). -/
theorem emptyBank_inRange : BankInRange emptyBank := by
  refine ⟨by simp [emptyBank], by simp [emptyBank], ?_, by unfold FormatInRange; decide, by unfold ScheduleInRange; decide⟩
  intro c _
  simp only [emptyBank, columnGet]
  split <;> decide

theorem defaultSettings_inRange : SettingsInRange defaultSettings := by unfold SettingsInRange; decide

end Sys2Proof.Machine
end

