-- ==== Sys2Proof/Laws/Carried.lean ====
section
/-! SUPPORT. Everything a taken command can do to the state, said once: `Carried s t` lists the effects of the twenty-six command
codes, each with what its refusals leave known. -/

namespace Sys2Proof.Machine

/-- The audit unit after a running audit, if there is one, has been aborted with a result. -/
def afterAbort (s : State) (r : AuditResult) : AuditUnit :=
  if s.tables.stagedState = .auditing then ⟨none, r⟩ else s.audit

/-- The states that carrying out a command in state `s` can leave. -/
inductive Carried (s : State) : State → Prop where
  | unchanged : Carried s s
  | edit (b : Bank) : s.tables.pendingTake = none → (BankInRange s.tables.staged → BankInRange b) →
      (BankSorted s.tables.staged → BankSorted b) → Carried s (staging s b)
  | copied : s.tables.pendingTake = none →
      Carried s
        { s with
          tables := { s.tables with staged := s.tables.live, stagedState := .clean }, audit := afterAbort s .copied }
  | audited (p : AuditProgress) : s.tables.pendingTake = none → s.tables.stagedState ≠ .auditing →
      Carried s
        { s with
          tables := { s.tables with stagedState := .auditing }, audit := { s.audit with progress := some p } }
  | take (target : FrameNo) (state : StagedState) : s.timing.link = .live ∨ s.timing.link = .lossWait →
      s.tables.pendingTake = none →
      state = (if s.tables.stagedState = .auditing then .dirty else s.tables.stagedState) →
      Carried s
        { s with
          tables := { s.tables with pendingTake := some target, stagedState := state }
          audit := afterAbort s .taken }
  | takeCancel : Carried s { s with tables := { s.tables with pendingTake := none } }
  | stock (l : List Stock) : l.length = s.tables.stock.length →
      Carried s { s with tables := { s.tables with stock := l } }
  | context (c : FrameContext) : (ContextInRange s.context → ContextInRange c) → Carried s { s with context := c }
  | backlight (o : Option Byte) : Carried s { s with output := { s.output with override := o } }
  | gamma (g : GammaTables) : g.red.length = s.output.gamma.red.length → g.green.length = s.output.gamma.green.length →
      g.blue.length = s.output.gamma.blue.length → Carried s { s with output := { s.output with gamma := g } }
  | photoOpen (id n : Nat) (r : PhotoRec) : tget s.photos.directory id = none → r.blocks = s.photos.free.take n →
      PhotoSized r →
      Carried s
        { s with
          photos := { s.photos with directory := tput s.photos.directory id r, free := s.photos.free.drop n } }
  | photoDrop (id : Nat) (r : PhotoRec) (events : EventSet) : tget s.photos.directory id = some r →
      Carried s
        { s with
          photos := { s.photos with directory := tdrop s.photos.directory id, free := s.photos.free ++ r.blocks }
          capture := dropStrips s.capture id
          lane := { s.lane with events := events } }
  | capture (q : CaptureRequest) : s.capture.queue.length < 4 → StripInPhoto s.photos.directory q →
      Carried s { s with capture := { s.capture with queue := s.capture.queue ++ [q] } }
  | glyphLoad (i : Nat) (g : GlyphSlot) (q : CaptureRequest) : s.capture.queue.length < 4 →
      StripInPhoto s.photos.directory q →
      Carried s
        { s with
          glyphs := { s.glyphs with slots := s.glyphs.slots.set i g }
          capture := { s.capture with queue := s.capture.queue ++ [q] } }
  | captureFlush (requests : List CaptureRequest) (events : EventSet) :
      Carried s
        { s with
          photos := { s.photos with directory := s.photos.directory.map (flushPhoto requests) }
          glyphs := { s.glyphs with slots := flushSlots requests s.glyphs.slots }
          capture := { queue := [], inFlight := none }
          lane := { s.lane with events := events } }
  | nodeResetTables : Carried s (resetTables s)
  | nodeResetFull : Carried s (resetFull s)
  | restrap : Carried s { s with lane := { s.lane with address := s.pins.straps, conflict := false } }

theorem abortAudit_eq (s : State) (r : AuditResult) : abortAudit s r = { s with audit := afterAbort s r } := by
  unfold abortAudit afterAbort
  split <;> rfl

/-- What a successful staged edit leaves (R26, R33). -/
theorem commitEdit_eq (s : State) (b : Bank) : commitEdit s b = staging s b := by
  simp only [commitEdit, abortAudit_eq]
  rfl

theorem raiseIf_eq (s : State) (c : Bool) (e : Event) :
    s.raiseIf c e = { s with lane := { s.lane with events := if c then s.lane.events.raise e else s.lane.events } } := by
  cases c <;> rfl

/-- The common handling of a staged edit past its length test and with no take pending (R3). -/
theorem stagedEdit_eq (s : State) (ok : Bool) (e : Option (Bank → Option Bank)) (h1 : ok = true)
    (h2 : s.tables.pendingTake = none) :
    stagedEdit s ok e =
      match e with
      | none => ⟨.outOfRange, [], s⟩
      | some f =>
        match f s.tables.staged with
        | none => ⟨.notFound, [], s⟩
        | some b => ⟨.ok, [], staging s b⟩ := by
  subst h1
  unfold stagedEdit
  rw [if_neg (by decide), if_neg (by rw [h2]; decide)]
  cases e with
  | none => rfl
  | some f =>
    simp only
    cases f s.tables.staged with
    | none => rfl
    | some b =>
      change done (commitEdit s b) = _
      rw [commitEdit_eq]
      rfl

/-- A staged edit leaves the state as it is, or with a new staged bank, in its ranges and in order where the old one is. -/
theorem stagedEdit_carried (s : State) (ok : Bool) (e : Option (Bank → Option Bank))
    (hr : ∀ f, e = some f → ∀ b, f s.tables.staged = some b →
      (BankInRange s.tables.staged → BankInRange b) ∧ (BankSorted s.tables.staged → BankSorted b)) :
    Carried s (stagedEdit s ok e).state := by
  unfold stagedEdit
  split
  · exact .unchanged
  · split
    · exact .unchanged
    · next h =>
      split
      · exact .unchanged
      · next f =>
        split
        · exact .unchanged
        · next b hb =>
          simp only [done, commitEdit_eq]
          exact .edit _ (by simpa using h) (hr f rfl b hb).1 (hr f rfl b hb).2

theorem carryItemPut_carried (p : List Byte) (s : State) : Carried s (carryItemPut p s).state := by
  refine stagedEdit_carried s _ _ fun f hf b hb => ?_
  cases hp : parseItem p with
  | none => rw [hp] at hf; cases hf
  | some r =>
    rw [hp] at hf
    cases hf
    cases hb
    refine ⟨fun hs => ⟨fun e he => ?_, hs.2⟩, fun hs => ⟨sortedKeys_tput hs.1 _ _, hs.2⟩⟩
    rcases mem_tput he with rfl | he
    · exact parseItem_inRange hp
    · exact hs.1 e he

theorem carryItemDrop_carried (p : List Byte) (s : State) : Carried s (carryItemDrop p s).state := by
  refine stagedEdit_carried s _ _ fun f hf b hb => ?_
  split at hf <;> cases hf
  simp only [Option.map_eq_some_iff] at hb
  obtain ⟨-, -, rfl⟩ := hb
  exact ⟨fun hs => ⟨fun e he => hs.1 e (List.mem_filter.1 he).1, hs.2⟩, fun hs => ⟨sortedKeys_tdrop hs.1 _, hs.2⟩⟩

theorem carryColumnPut_carried (p : List Byte) (s : State) : Carried s (carryColumnPut p s).state := by
  refine stagedEdit_carried s _ _ fun f hf b hb => ?_
  split at hf <;> cases hf
  next hr =>
    cases hb
    refine ⟨fun hs => ⟨hs.1, hs.2.1, fun c hc => ?_, hs.2.2.2⟩, fun hs => hs⟩
    have old := hs.2.2.1 c hc
    have : c = 0 ∨ c = 1 ∨ c = 2 ∨ c = 3 := by omega
    rcases this with rfl | rfl | rfl | rfl <;> simp only [columnGet, columnSet] at old ⊢ <;> split <;>
      first | exact old | exact hr.2

theorem carryFormatPut_carried (p : List Byte) (s : State) : Carried s (carryFormatPut p s).state := by
  refine stagedEdit_carried s _ _ fun f hf b hb => ?_
  cases hp : parseFormat p with
  | none => rw [hp] at hf; cases hf
  | some r =>
    rw [hp] at hf
    cases hf
    cases hb
    exact ⟨fun hs => ⟨hs.1, hs.2.1, hs.2.2.1, parseFormat_inRange hp, hs.2.2.2.2⟩, fun hs => hs⟩

theorem carryTilePut_carried (p : List Byte) (s : State) : Carried s (carryTilePut p s).state := by
  refine stagedEdit_carried s _ _ fun f hf b hb => ?_
  cases hp : parseTile p with
  | none => rw [hp] at hf; cases hf
  | some r =>
    rw [hp] at hf
    cases hf
    cases hb
    refine ⟨fun hs => ⟨hs.1, fun e he => ?_, hs.2.2⟩, fun hs => ⟨hs.1, sortedKeys_tput hs.2 _ _⟩⟩
    rcases mem_tput he with rfl | he
    · have h := parseTile_inRange hp
      have hid : r.2.1 < 48 := h.2.1
      simp only [tileKey, Config.tilesPerPage]
      rw [show (r.1 * 48 + r.2.1) / 48 = r.1 by omega, show (r.1 * 48 + r.2.1) % 48 = r.2.1 by omega]
      exact h
    · exact hs.2.1 e he

theorem carryTileDrop_carried (p : List Byte) (s : State) : Carried s (carryTileDrop p s).state := by
  refine stagedEdit_carried s _ _ fun f hf b hb => ?_
  split at hf <;> cases hf
  simp only [Option.map_eq_some_iff] at hb
  obtain ⟨-, -, rfl⟩ := hb
  exact ⟨fun hs => ⟨hs.1, fun e he => hs.2.1 e (List.mem_filter.1 he).1, hs.2.2⟩,
    fun hs => ⟨hs.1, sortedKeys_tdrop hs.2 _⟩⟩

theorem carryPageWipe_carried (p : List Byte) (s : State) : Carried s (carryPageWipe p s).state := by
  refine stagedEdit_carried s _ _ fun f hf b hb => ?_
  split at hf <;> cases hf
  cases hb
  exact ⟨fun hs => ⟨hs.1, fun e he => hs.2.1 e (List.mem_filter.1 he).1, hs.2.2⟩,
    fun hs => ⟨hs.1, sortedKeys_filter hs.2 _⟩⟩

theorem carrySchedPut_carried (p : List Byte) (s : State) : Carried s (carrySchedPut p s).state := by
  refine stagedEdit_carried s _ _ fun f hf b hb => ?_
  cases hp : parseSchedule p with
  | none => rw [hp] at hf; cases hf
  | some r =>
    rw [hp] at hf
    cases hf
    cases hb
    exact ⟨fun hs => ⟨hs.1, hs.2.1, hs.2.2.1, hs.2.2.2.1, parseSchedule_inRange hp⟩, fun hs => hs⟩

theorem carryForce_carried (p : List Byte) (s : State) : Carried s (carryForce p s).state := by
  unfold carryForce
  (repeat' split) <;> first | exact .unchanged | skip
  next o hp =>
    refine .context _ fun hc => ⟨hc.1, hc.2.1, fun x hx => ?_⟩
    simp only at hx
    subst hx
    exact parseForce_inRange hp

theorem carryHighlight_carried (p : List Byte) (s : State) : Carried s (carryHighlight p s).state := by
  unfold carryHighlight
  (repeat' split) <;> first | exact .unchanged | skip
  · next content hp =>
    refine .context _ fun hc => ⟨hc.1, fun h hh => ?_, hc.2.2⟩
    rcases hh with hh | hh
    · simp only at hh; subst hh; exact parseHighlight_inRange hp
    · exact hc.2.1 h (.inr hh)
  · next content _ hp =>
    refine .context _ fun hc => ⟨hc.1, fun h hh => ?_, hc.2.2⟩
    rcases hh with hh | hh
    · exact hc.2.1 h (.inl hh)
    · simp only at hh; subst hh; exact parseHighlight_inRange hp

theorem carryConfigPut_carried (p : List Byte) (s : State) : Carried s (carryConfigPut p s).state := by
  unfold carryConfigPut
  (repeat' split) <;> first | exact .unchanged | skip
  next hl _ _ hp => exact .context _ fun hc => ⟨parseSettings_inRange (not_not.1 hl) hp, hc.2⟩

theorem writePairs_length {α : Type} (pairs : List (Nat × α)) (l : List α) :
    (writePairs pairs l).length = l.length := by
  induction pairs generalizing l with
  | nil => rfl
  | cons e rest ih => simp [writePairs, ih]

theorem writeRun_length {α : Type} (i : Nat) (entries l : List α) : (writeRun i entries l).length = l.length := by
  induction entries generalizing l i with
  | nil => rfl
  | cons e rest ih => simp [writeRun, ih]

theorem flushSlots_length (q : List CaptureRequest) (l : List GlyphSlot) : (flushSlots q l).length = l.length := by
  induction q generalizing l with
  | nil => rfl
  | cons e rest ih => cases e <;> simp [flushSlots, ih]

theorem carryStageCopy_carried (p : List Byte) (s : State) : Carried s (carryStageCopy p s).state := by
  unfold carryStageCopy
  split
  · exact .unchanged
  · split
    · exact .unchanged
    · next h =>
      simp only [abortAudit_eq, done]
      exact .copied (by simpa using h)

theorem carryAudit_carried (p : List Byte) (s : State) : Carried s (carryAudit p s).state := by
  unfold carryAudit
  (repeat' split) <;> first | exact .unchanged | skip
  next h1 h2 => exact .audited _ (by simpa using h1) h2

theorem carryTake_carried (p : List Byte) (s : State) : Carried s (carryTake p s).state := by
  unfold carryTake
  (repeat' split) <;> first | exact .unchanged | skip
  next target _ h1 h2 _ _ =>
    have hl : s.timing.link = .live ∨ s.timing.link = .lossWait := by cases h : s.timing.link <;> simp_all
    have := Carried.take (s := s) target _ hl (by simpa using h2) rfl
    simp only [doneWith, takeAborts]
    unfold afterAbort at this
    split <;> simp_all

theorem carryPhotoOpen_carried (p : List Byte) (s : State) : Carried s (carryPhotoOpen p s).state := by
  unfold carryPhotoOpen
  (repeat' split) <;> first | exact .unchanged | skip
  next h hr _ _ _ hn =>
    refine .photoOpen _ _ _ (by simpa using h) rfl ?_
    simp only [PhotoSized, newPhoto, List.length_take]
    simp only [blocksNeeded, blocksAcross, Config.blockSide] at hn ⊢
    refine ⟨by omega, by omega, by omega, by omega, Nat.min_eq_left (by omega)⟩

theorem carryPhotoDrop_carried (p : List Byte) (s : State) : Carried s (carryPhotoDrop p s).state := by
  unfold carryPhotoDrop
  (repeat' split) <;> first | exact .unchanged | skip
  next r h _ =>
    simp only [doneWith, raiseIf_eq]
    exact .photoDrop _ r _ h

theorem carryCapture_carried (p : List Byte) (s : State) : Carried s (carryCapture p s).state := by
  unfold carryCapture
  (repeat' split) <;> first | exact .unchanged | skip
  next r hr _ hin _ h =>
    refine .capture _ (by simpa [Config.captureCapacity] using h) fun id x y row rows hq => ?_
    cases hq
    simp only [captureInRange, Bool.not_eq_true', Bool.not_eq_false, Bool.and_eq_true, decide_eq_true_eq] at hin
    exact ⟨by omega, r, hr, by omega⟩

theorem carryGlyphLoad_carried (p : List Byte) (s : State) : Carried s (carryGlyphLoad p s).state := by
  unfold carryGlyphLoad
  (repeat' split) <;> first | exact .unchanged | skip
  next h => exact .glyphLoad _ _ _ (by simpa [Config.captureCapacity] using h) fun _ _ _ _ _ hq => nomatch hq

theorem carryCaptureFlush_carried (p : List Byte) (s : State) : Carried s (carryCaptureFlush p s).state := by
  unfold carryCaptureFlush
  split
  · exact .unchanged
  · simp only [doneWith, raiseIf_eq]
    exact .captureFlush _ _

/-- Whatever its code and payload, a taken command does one of the things listed. -/
theorem carryOut_carried (code : Byte) (p : List Byte) (s : State) : Carried s (carryOut code p s).state := by
  unfold carryOut
  split
  · exact carryItemPut_carried ..
  · exact carryItemDrop_carried ..
  · exact carryColumnPut_carried ..
  · exact carryFormatPut_carried ..
  · exact carryTilePut_carried ..
  · exact carryTileDrop_carried ..
  · exact carryPageWipe_carried ..
  · exact carrySchedPut_carried ..
  · exact carryStageCopy_carried ..
  · exact carryAudit_carried ..
  · exact carryTake_carried ..
  · unfold carryTakeCancel
    (repeat' split) <;> first | exact .unchanged | exact .takeCancel
  · unfold carryStock
    (repeat' split) <;> first | exact .unchanged | exact .stock _ (writePairs_length _ _)
  · exact carryForce_carried ..
  · exact carryHighlight_carried ..
  · unfold carryBacklight
    (repeat' split) <;> first | exact .unchanged | exact .backlight _
  · exact carryConfigPut_carried ..
  · unfold carryGammaPut
    (repeat' split) <;> first | exact .unchanged | skip
    next channel _ _ _ =>
      cases channel <;> exact .gamma _ (by simp [writeGamma, writeRun_length]) (by simp [writeGamma, writeRun_length])
        (by simp [writeGamma, writeRun_length])
  · exact carryPhotoOpen_carried ..
  · exact carryPhotoDrop_carried ..
  · exact carryCapture_carried ..
  · exact carryGlyphLoad_carried ..
  · exact carryCaptureFlush_carried ..
  · unfold carryQuery
    (repeat' split) <;> exact .unchanged
  · unfold carryNodeReset
    (repeat' split) <;> first | exact .unchanged | exact .nodeResetTables | exact .nodeResetFull
  · unfold carryRestrap
    (repeat' split) <;> first | exact .unchanged | exact .restrap
  · exact .unchanged

theorem replyFull_iff (s : State) : replyFull s = true ↔ 8 ≤ s.lane.queue.length := decide_eq_true_iff

theorem replyFull_false_iff (s : State) : replyFull s = false ↔ s.lane.queue.length < 8 := by
  rw [← Bool.not_eq_true, replyFull_iff]
  omega

/-- What holds of a state and is kept by taking a packet holds when the Command Processor has run. -/
theorem takePackets_induct {P : State → Prop}
    (h : ∀ (s : State) (f : Frame) (k : Packet) (rest : List Packet), P s → s.frame = some f → s.intake = k :: rest →
      (answered s k = true → replyFull s = false) → P (takePacket { s with intake := rest } k))
    (n : Nat) (s : State) (hs : P s) : P (takePackets n s) := by
  induction n generalizing s with
  | zero => exact hs
  | succ n ih =>
    unfold takePackets
    split
    · next f k rest hf hq =>
      split
      · exact hs
      · next hst => exact ih _ (h s f k rest hs hf hq fun ha => by simpa [ha] using hst)
    · exact hs

end Sys2Proof.Machine
end

