-- ==== Sys2Proof/Laws/Captured.lean ====
section
/-! SUPPORT. Everything the Capture Engine's operations can do to the state, said once: `Captured s t`. -/

namespace Sys2Proof.Machine

/-- A photo directory's keys with the blocks each record holds. -/
def blockLists (d : Table PhotoRec) : List (Nat × List Nat) := d.map fun e => (e.1, e.2.blocks)

/-- What failing, arming, writing and completing requests may change: directory records (not their ids nor their blocks), picture
memory, glyph slots, the engine and the events. -/
structure Captured (s t : State) : Prop where
  shape : ∃ d m slots engine events,
    t =
      { s with
        photos := { s.photos with directory := d, memory := m }
        glyphs := { s.glyphs with slots := slots }
        capture := engine
        lane := { s.lane with events := events } }
  queue : t.capture.queue.length ≤ s.capture.queue.length
  slots : t.glyphs.slots.length = s.glyphs.slots.length
  blocks : sortedKeys s.photos.directory = true → blockLists t.photos.directory = blockLists s.photos.directory
  memory : Memory.wf s.photos.memory = true → Memory.wf t.photos.memory = true

theorem sortedKeys_of_blockLists {d e : Table PhotoRec} (h : blockLists d = blockLists e) :
    sortedKeys d = sortedKeys e := by
  have : ∀ d : Table PhotoRec, sortedKeys d = sortedKeys (blockLists d) := fun d =>
    (sortedKeys_map d (fun e => (e.1, e.2.blocks)) fun _ => rfl).symm
  rw [this d, this e, h]

namespace Captured

theorem refl (s : State) : Captured s s :=
  ⟨⟨_, _, _, _, _, rfl⟩, le_rfl, rfl, fun _ => rfl, id⟩

theorem trans {s t u : State} (h : Captured s t) (h' : Captured t u) : Captured s u := by
  refine ⟨?_, h'.queue.trans h.queue, h'.slots.trans h.slots, fun hs => ?_, fun hm => h'.memory (h.memory hm)⟩
  · obtain ⟨_, _, _, _, _, h1⟩ := h.shape
    obtain ⟨_, _, _, _, _, h2⟩ := h'.shape
    subst h1
    exact ⟨_, _, _, _, _, h2⟩
  · rw [h'.blocks ((sortedKeys_of_blockLists (h.blocks hs)).trans hs), h.blocks hs]

theorem raise (s : State) (e : Event) : Captured s (s.raise e) :=
  ⟨⟨_, _, _, _, _, rfl⟩, le_rfl, rfl, fun _ => rfl, id⟩

theorem setSlot (s : State) (font slot : Nat) (g : GlyphSlot) : Captured s (s.setSlot font slot g) :=
  ⟨⟨_, _, _, _, _, rfl⟩, le_rfl, by simp [State.setSlot], fun _ => rfl, id⟩

theorem setPhoto {s : State} {id : Nat} {r r' : PhotoRec} (h : tget s.photos.directory id = some r)
    (hb : r'.blocks = r.blocks) : Captured s (s.setPhoto id r') :=
  ⟨⟨_, _, _, _, _, rfl⟩, le_rfl, rfl, fun hs => tput_replace_map hs h PhotoRec.blocks hb, fun hm => hm⟩

theorem engine {s : State} {c : CaptureEngine} (h : c.queue.length ≤ s.capture.queue.length) :
    Captured s { s with capture := c } :=
  ⟨⟨_, _, _, _, _, rfl⟩, h, rfl, fun _ => rfl, id⟩

theorem pixels {s : State} {m : List Host.Cell} (h : Memory.wf s.photos.memory = true → Memory.wf m = true) :
    Captured s { s with photos := { s.photos with memory := m } } :=
  ⟨⟨_, _, _, _, _, rfl⟩, le_rfl, rfl, fun _ => rfl, h⟩

end Captured

theorem failRequest_captured (s : State) (q : CaptureRequest) (r : StripResult) : Captured s (failRequest s q r) := by
  unfold failRequest
  split
  · simp only
    split
    · next rec h =>
      refine (Captured.engine (List.length_filter_le ..)).trans (.trans (Captured.setPhoto (r := rec) ?_ ?_) (.raise _ _))
      · exact h
      · rfl
    · exact (Captured.engine (List.length_filter_le ..)).trans (.raise _ _)
  · exact (Captured.setSlot ..).trans (.raise _ _)

theorem failInFlight_captured (s : State) (r : StripResult) : Captured s (failInFlight s r) := by
  unfold failInFlight
  split
  · exact .refl s
  · exact Captured.trans (t := { s with capture := { s.capture with inFlight := none } }) (.engine le_rfl)
      (failRequest_captured _ _ _)

theorem failInFlight_inFlight (s : State) (r : StripResult) : (failInFlight s r).capture.inFlight = none := by
  unfold failInFlight failRequest
  split
  · assumption
  · (repeat' split) <;> rfl

theorem armCapture_captured (s : State) : Captured s (armCapture s) := by
  unfold armCapture
  split
  · next q _ =>
    have hl : ∀ c : CaptureEngine, c.queue.length + 1 = s.capture.queue.length →
        Captured s { s with capture := c } := fun c hc => .engine (by omega)
    split
    · exact hl _ (by simp [q])
    · exact (hl _ (by simp [q])).trans (failRequest_captured _ _ _)
  · exact .refl s

theorem armIfGood_captured (s : State) (c : FrameCause) : Captured s (armIfGood s c) := by
  cases c
  case goodHeader => exact armCapture_captured s
  all_goals exact .refl s

theorem completeCapture_captured (s : State) : Captured s (completeCapture s) :=
  Captured.trans (t := { s with capture := { s.capture with inFlight := none } }) (.engine le_rfl) (.raise _ _)

theorem countLine_captured (s : State) (f : InFlight) : Captured s (countLine s f) := Captured.engine le_rfl

theorem stripLine_captured (s : State) (f : InFlight) (id x y row rows a : Nat) (l : List Color) (n : Nat) :
    Captured s (stripLine s f id x y row rows a l n) := by
  unfold stripLine
  split
  · exact .refl s
  · next r hr =>
    have hp := Captured.pixels (s := s)
      (m := writePhotoRow r (row + (a - y)) 0 ((l.drop x).take r.w) s.photos.memory) fun h => writePhotoRow_wf h ..
    split
    · simp only
      split
      · refine hp.trans (.trans (Captured.setPhoto (r := r) (r' := stripDone r rows) ?_ rfl) (completeCapture_captured _))
        exact hr
      · exact hp.trans (countLine_captured ..)
    · (repeat' split) <;> exact failInFlight_captured ..

theorem glyphLine_captured (s : State) (f : InFlight) (font slot x y w h a : Nat) (l : List Color) :
    Captured s (glyphLine s f font slot x y w h a l) := by
  unfold glyphLine
  split
  · simp only
    split
    · exact (Captured.setSlot ..).trans (completeCapture_captured _)
    · exact (Captured.setSlot ..).trans (countLine_captured ..)
  · exact failInFlight_captured ..

theorem captureLine_captured (s : State) (a : Nat) (l : List Color) (n : Nat) : Captured s (captureLine s a l n) := by
  unfold captureLine
  (repeat' split) <;> first | exact .refl s | exact stripLine_captured .. | exact glyphLine_captured ..

end Sys2Proof.Machine
end

