-- ==== Sys2Proof/Laws/Keeps.lean ====
section
/-! SUPPORT. How a property of the state is kept by every command: once for the plumbing of the rows, so that an invariant is a
check of the operations named below. -/

namespace Sys2Proof.Machine

/-- The state once the record at the head of the reply queue has left it, with the grant memory given (R178, R180). -/
def freedSlot (s : State) (r : ReplyRecord) (rest : List ReplyRecord) (g : GrantMemory) : State :=
  { s with
    lane := { s.lane with queue := rest, sending := false, grant := g }
    out := { s.out with laneUp := some r } }

/-- A property that every operation of the rows keeps. -/
structure Keeps (P : State → Prop) : Prop where
  ports : ∀ s out pins, P s → P { s with out := out, pins := pins }
  receiver : ∀ s r, P s → P { s with receiver := r }
  raise : ∀ s e, P s → P (s.raise e)
  join : ∀ s k, P s → P (joinIntake s k)
  take : ∀ s k rest, P s → s.intake = k :: rest → (answered s k = true → replyFull s = false) →
    P (takePacket { s with intake := rest } k)
  header : ∀ s l, P s → P (headerEnd s l)
  headerTimer : ∀ s, P s → s.timing.link = .live ∨ s.timing.link = .lossWait → P (missFrame s .headerTimer)
  localTimer : ∀ s, P s → s.timing.link = .search ∨ s.timing.link = .standalone → P (frameStart s .localTimer false)
  stop : ∀ s, P s → P (stopInput s)
  active : ∀ s l, P s → P (activeArrives s l)
  localLine : ∀ s, P s → P (localLine s)
  gap : ∀ s, P s → P { s with timing := { s.timing with good := 0, headerTimer := false } }
  tick : ∀ s, P s → P { s with timing := tickClock s.timing }
  hold : ∀ s l, P s → P (s.hold l)
  sending : ∀ s b, P s → P { s with lane := { s.lane with sending := b } }
  freed : ∀ s r rest g, P s → s.lane.queue = r :: rest → P (freedSlot s r rest g)
  accept : ∀ s r rest g, P s → s.lane.queue = r :: rest → P (acceptForwarded (freedSlot s r rest g))
  receive : ∀ s bs, P s → P (receiveRecord s bs)
  holdReset : ∀ s, P s → P (holdReset s)
  releaseReset : ∀ s, P s → P (releaseReset s)

namespace Keeps

variable {P : State → Prop} (K : Keeps P)

include K

theorem process {s : State} (h : P s) : P s.process :=
  takePackets_induct (P := P) (fun s _ k rest hs _ hq hst => K.take s k rest hs hq hst) _ s h

theorem arrives {s : State} (h : P s) (k : Packet) : P (packetArrives s k) := by
  unfold packetArrives
  split
  · exact K.process (K.join s k h)
  · exact h

theorem bytes {s : State} (h : P s) (bs : List Byte) : P (packetBytes s bs) := by
  unfold packetBytes
  split
  · exact K.arrives h _
  · exact K.raise _ _ h

theorem line {s : State} (h : P s) (l : List Byte) : P (lineArrives s l) := by
  have h1 : P (s.repeatThrough (.line l)) := K.ports s _ s.pins h
  unfold lineArrives
  simp only
  split
  · exact h1
  · unfold readLine
    split
    · exact h1
    · exact K.process (K.header _ _ h1)
    · unfold laterLine
      split
      · exact h1
      · (repeat' split) <;> first | exact h1 | exact K.bytes h1 _ | exact K.active _ _ h1

theorem cut {s : State} (h : P s) (c : Option (List Byte)) : P (cutLine s c) := by
  unfold cutLine
  split
  · exact K.process (K.header _ _ h)
  · unfold cutPacket
    (repeat' split) <;> first | exact h | exact K.bytes h _
  · exact h

theorem repeatCut {s : State} (h : P s) (c : Option (List Byte)) : P (s.repeatCut c) := by
  cases c
  · exact h
  · exact K.ports s _ s.pins h

/-- A kept property holds in every next state. -/
theorem exec {i : Instr} {s t : State} (h : P s) (he : exec i s = .next t) : P t := by
  have hb : P s.begin := K.ports s _ s.pins h
  have hl : ∀ p, P (s.begin.latch p) := fun p => K.ports s _ p h
  cases hi : packetOf i with
  | some k =>
    rw [exec_packetOf hi] at he
    cases he
    have : P (entered s i) := K.ports s _ _ h
    split
    · exact this
    · exact K.arrives this k
  | none =>
    cases i <;> simp only [packetOf, reduceCtorEq] at hi
    case headerLineEnd l p => cases he; exact K.line (hl p) l
    case packetLine l p => cases he; exact K.line (hl p) l
    case activeLine l => cases he; exact K.line hb l
    case frameStartMark c p =>
      have h1 : P (((s.begin.latch p).repeatCut c).repeatThrough .mark) :=
        K.ports _ _ ((s.begin.latch p).repeatCut c).pins (K.repeatCut (hl p) c)
      simp only [Machine.exec, execFrameStartMark] at he
      split at he <;> cases he
      · exact h1
      · exact K.receiver _ _ (K.stop _ (K.cut h1 c))
    case inputSignalLoss c p =>
      have h1 := K.repeatCut (hl p) c
      simp only [Machine.exec, execInputSignalLoss] at he
      split at he <;> cases he
      · exact h1
      · exact K.stop _ (K.cut h1 c)
    case lineGapTimeout c p =>
      have h1 := K.repeatCut (hl p) c
      simp only [Machine.exec, execLineGapTimeout] at he
      split at he <;> cases he
      · exact K.stop _ (K.cut h1 c)
      · exact h1
    case headerTimerExpires p =>
      simp only [Machine.exec, execHeaderTimerExpires] at he
      split at he <;> cases he
      · next hk => exact K.process (K.headerTimer _ (hl p) (.inl hk))
      · next hk => exact K.process (K.headerTimer _ (hl p) (.inr hk))
      · exact hl p
    case gapTimerExpires =>
      simp only [Machine.exec, execGapTimerExpires] at he
      split at he <;> cases he
      · exact K.gap _ hb
      · exact K.gap _ hb
      · exact hb
    case localFrameTimerExpires p =>
      simp only [Machine.exec, execLocalFrameTimerExpires] at he
      split at he <;> cases he
      · next hk => exact K.process (K.localTimer _ (hl p) (.inl hk))
      · next hk => exact K.process (K.localTimer _ (hl p) (.inr hk))
      · exact hl p
    case localLineTimer => cases he; exact K.localLine _ hb
    case clockSecondTick =>
      simp only [Machine.exec, execClockSecondTick] at he
      split at he <;> cases he
      · exact hb
      · exact K.tick _ hb
    case upstreamTransferStart l =>
      simp only [Machine.exec, execUpstreamTransferStart] at he
      split at he <;> cases he
      · exact K.hold _ l hb
      · exact K.sending _ true (K.hold _ l hb)
    case upstreamTransferDone p =>
      simp only [Machine.exec, execUpstreamTransferDone] at he
      split at he <;> cases he
      · unfold finishTransfer
        split
        · exact hl p
        · next r rest hq =>
          unfold grantSlot
          split
          · exact K.accept (s.begin.latch p) r rest .own (hl p) hq
          · exact K.process (K.freed (s.begin.latch p) r rest .forward (hl p) hq)
          · exact K.accept (s.begin.latch p) r rest _ (hl p) hq
          · exact K.process (K.freed (s.begin.latch p) r rest _ (hl p) hq)
          · exact K.freed (s.begin.latch p) r rest _ (hl p) hq
      · exact hl p
    case downstreamRecordReceived bs =>
      simp only [Machine.exec, execDownstreamRecordReceived] at he
      split at he <;> cases he
      · exact hb
      · exact K.receive _ bs hb
    case resetnAssert =>
      simp only [Machine.exec, execResetnAssert] at he
      split at he <;> cases he
      · exact hb
      · exact K.holdReset _ hb
    case resetnRelease p =>
      simp only [Machine.exec, execResetnRelease] at he
      split at he <;> cases he
      · exact K.releaseReset _ (hl p)
      · exact hl p
    case downstreamRecordCutShort =>
      simp only [Machine.exec, execDownstreamRecordCutShort] at he
      split at he <;> cases he
      · exact hb
      · exact K.raise _ _ (K.ports _ _ s.begin.pins hb)
    case upstreamTransferCut l => cases he; exact K.sending _ false (K.hold _ l hb)

end Keeps

end Sys2Proof.Machine
end

