-- ==== Sys2Proof/Laws/FrameStart.lean ====
section
/-! SUPPORT. What a frame start and the other events of the input port do to each block, block by block. -/

namespace Sys2Proof.Machine

/-! ### What the Capture Engine's operations leave -/

namespace Captured

variable {s t : State} (h : Captured s t)

include h

theorem lane :
    t.lane.queue = s.lane.queue ∧ t.lane.sending = s.lane.sending ∧ t.lane.buffer = s.lane.buffer ∧
    t.lane.grant = s.lane.grant ∧ t.lane.address = s.lane.address ∧ t.lane.conflict = s.lane.conflict ∧
    t.lane.upstreamHold = s.lane.upstreamHold := by
  obtain ⟨_, _, _, _, _, rfl⟩ := h.shape
  exact ⟨rfl, rfl, rfl, rfl, rfl, rfl, rfl⟩

theorem counts :
    t.photos.free = s.photos.free ∧ t.photos.refCounts = s.photos.refCounts ∧ t.glyphs.useCounts = s.glyphs.useCounts := by
  obtain ⟨_, _, _, _, _, rfl⟩ := h.shape
  exact ⟨rfl, rfl, rfl⟩

end Captured

variable (s : State)

/-! ### The lane, but for its events -/

@[simp] theorem failInFlight_lane (r : StripResult) :
    (failInFlight s r).lane.queue = s.lane.queue ∧ (failInFlight s r).lane.sending = s.lane.sending ∧
    (failInFlight s r).lane.buffer = s.lane.buffer ∧ (failInFlight s r).lane.grant = s.lane.grant ∧
    (failInFlight s r).lane.address = s.lane.address ∧ (failInFlight s r).lane.conflict = s.lane.conflict ∧
    (failInFlight s r).lane.upstreamHold = s.lane.upstreamHold := (failInFlight_captured s r).lane

@[simp] theorem armIfGood_lane (c : FrameCause) :
    (armIfGood s c).lane.queue = s.lane.queue ∧ (armIfGood s c).lane.sending = s.lane.sending ∧
    (armIfGood s c).lane.buffer = s.lane.buffer ∧ (armIfGood s c).lane.grant = s.lane.grant ∧
    (armIfGood s c).lane.address = s.lane.address ∧ (armIfGood s c).lane.conflict = s.lane.conflict ∧
    (armIfGood s c).lane.upstreamHold = s.lane.upstreamHold := (armIfGood_captured s c).lane

@[simp] theorem captureLine_lane (a : Nat) (l : List Color) (n : Nat) :
    (captureLine s a l n).lane.queue = s.lane.queue ∧ (captureLine s a l n).lane.sending = s.lane.sending ∧
    (captureLine s a l n).lane.buffer = s.lane.buffer ∧ (captureLine s a l n).lane.grant = s.lane.grant ∧
    (captureLine s a l n).lane.address = s.lane.address ∧ (captureLine s a l n).lane.conflict = s.lane.conflict ∧
    (captureLine s a l n).lane.upstreamHold = s.lane.upstreamHold := (captureLine_captured s a l n).lane

@[simp] theorem completeAudit_lane (x : StagedState) (r : AuditResult) :
    (completeAudit s x r).lane.queue = s.lane.queue ∧ (completeAudit s x r).lane.sending = s.lane.sending ∧
    (completeAudit s x r).lane.buffer = s.lane.buffer ∧ (completeAudit s x r).lane.grant = s.lane.grant ∧
    (completeAudit s x r).lane.address = s.lane.address ∧ (completeAudit s x r).lane.conflict = s.lane.conflict ∧
    (completeAudit s x r).lane.upstreamHold = s.lane.upstreamHold :=
  ⟨rfl, rfl, rfl, rfl, rfl, rfl, rfl⟩

@[simp] theorem auditFrame_lane :
    (auditFrame s).lane.queue = s.lane.queue ∧ (auditFrame s).lane.sending = s.lane.sending ∧
    (auditFrame s).lane.buffer = s.lane.buffer ∧ (auditFrame s).lane.grant = s.lane.grant ∧
    (auditFrame s).lane.address = s.lane.address ∧ (auditFrame s).lane.conflict = s.lane.conflict ∧
    (auditFrame s).lane.upstreamHold = s.lane.upstreamHold := by
  unfold auditFrame
  (repeat' split) <;> simp

@[simp] theorem cancelTake_lane :
    (cancelTake s).lane.queue = s.lane.queue ∧ (cancelTake s).lane.sending = s.lane.sending ∧
    (cancelTake s).lane.buffer = s.lane.buffer ∧ (cancelTake s).lane.grant = s.lane.grant ∧
    (cancelTake s).lane.address = s.lane.address ∧ (cancelTake s).lane.conflict = s.lane.conflict ∧
    (cancelTake s).lane.upstreamHold = s.lane.upstreamHold :=
  ⟨rfl, rfl, rfl, rfl, rfl, rfl, rfl⟩

@[simp] theorem applyTake_lane :
    (applyTake s).lane.queue = s.lane.queue ∧ (applyTake s).lane.sending = s.lane.sending ∧
    (applyTake s).lane.buffer = s.lane.buffer ∧ (applyTake s).lane.grant = s.lane.grant ∧
    (applyTake s).lane.address = s.lane.address ∧ (applyTake s).lane.conflict = s.lane.conflict ∧
    (applyTake s).lane.upstreamHold = s.lane.upstreamHold :=
  ⟨rfl, rfl, rfl, rfl, rfl, rfl, rfl⟩

@[simp] theorem settleTake_lane (n : FrameNo) (c : Bool) :
    (settleTake s n c).lane.queue = s.lane.queue ∧ (settleTake s n c).lane.sending = s.lane.sending ∧
    (settleTake s n c).lane.buffer = s.lane.buffer ∧ (settleTake s n c).lane.grant = s.lane.grant ∧
    (settleTake s n c).lane.address = s.lane.address ∧ (settleTake s n c).lane.conflict = s.lane.conflict ∧
    (settleTake s n c).lane.upstreamHold = s.lane.upstreamHold := by
  unfold settleTake
  (repeat' split) <;> simp

@[simp] theorem samplePanel_lane :
    (samplePanel s).lane.queue = s.lane.queue ∧ (samplePanel s).lane.sending = s.lane.sending ∧
    (samplePanel s).lane.buffer = s.lane.buffer ∧ (samplePanel s).lane.grant = s.lane.grant ∧
    (samplePanel s).lane.address = s.lane.address ∧ (samplePanel s).lane.conflict = s.lane.conflict ∧
    (samplePanel s).lane.upstreamHold = s.lane.upstreamHold := by
  unfold samplePanel
  extract_lets level
  split
  · simp
  · split <;> simp

@[simp] theorem settleFrame_lane (c : FrameCause) (b : Bool) :
    (settleFrame s c b).lane.queue = s.lane.queue ∧ (settleFrame s c b).lane.sending = s.lane.sending ∧
    (settleFrame s c b).lane.buffer = s.lane.buffer ∧ (settleFrame s c b).lane.grant = s.lane.grant ∧
    (settleFrame s c b).lane.address = s.lane.address ∧ (settleFrame s c b).lane.conflict = s.lane.conflict ∧
    (settleFrame s c b).lane.upstreamHold = s.lane.upstreamHold := by
  unfold settleFrame
  simp

@[simp] theorem frameStart_lane (c : FrameCause) (b : Bool) :
    (frameStart s c b).lane.queue = s.lane.queue ∧ (frameStart s c b).lane.sending = s.lane.sending ∧
    (frameStart s c b).lane.buffer = s.lane.buffer ∧ (frameStart s c b).lane.grant = s.lane.grant ∧
    (frameStart s c b).lane.address = s.lane.address ∧ (frameStart s c b).lane.conflict = s.lane.conflict ∧
    (frameStart s c b).lane.upstreamHold = s.lane.upstreamHold := by
  unfold frameStart
  simp

@[simp] theorem enter_lane (l : LinkState) (m : Nat) :
    (s.enter l m).lane.queue = s.lane.queue ∧ (s.enter l m).lane.sending = s.lane.sending ∧
    (s.enter l m).lane.buffer = s.lane.buffer ∧ (s.enter l m).lane.grant = s.lane.grant ∧
    (s.enter l m).lane.address = s.lane.address ∧ (s.enter l m).lane.conflict = s.lane.conflict ∧
    (s.enter l m).lane.upstreamHold = s.lane.upstreamHold :=
  ⟨rfl, rfl, rfl, rfl, rfl, rfl, rfl⟩

@[simp] theorem enterLive_lane :
    (enterLive s).lane.queue = s.lane.queue ∧ (enterLive s).lane.sending = s.lane.sending ∧
    (enterLive s).lane.buffer = s.lane.buffer ∧ (enterLive s).lane.grant = s.lane.grant ∧
    (enterLive s).lane.address = s.lane.address ∧ (enterLive s).lane.conflict = s.lane.conflict ∧
    (enterLive s).lane.upstreamHold = s.lane.upstreamHold :=
  ⟨rfl, rfl, rfl, rfl, rfl, rfl, rfl⟩

@[simp] theorem enterStandalone_lane :
    (enterStandalone s).lane.queue = s.lane.queue ∧ (enterStandalone s).lane.sending = s.lane.sending ∧
    (enterStandalone s).lane.buffer = s.lane.buffer ∧ (enterStandalone s).lane.grant = s.lane.grant ∧
    (enterStandalone s).lane.address = s.lane.address ∧ (enterStandalone s).lane.conflict = s.lane.conflict ∧
    (enterStandalone s).lane.upstreamHold = s.lane.upstreamHold :=
  ⟨rfl, rfl, rfl, rfl, rfl, rfl, rfl⟩

@[simp] theorem missAtStop_lane :
    (missAtStop s).lane.queue = s.lane.queue ∧ (missAtStop s).lane.sending = s.lane.sending ∧
    (missAtStop s).lane.buffer = s.lane.buffer ∧ (missAtStop s).lane.grant = s.lane.grant ∧
    (missAtStop s).lane.address = s.lane.address ∧ (missAtStop s).lane.conflict = s.lane.conflict ∧
    (missAtStop s).lane.upstreamHold = s.lane.upstreamHold := by
  unfold missAtStop
  (repeat' split) <;> simp

@[simp] theorem stopInput_lane :
    (stopInput s).lane.queue = s.lane.queue ∧ (stopInput s).lane.sending = s.lane.sending ∧
    (stopInput s).lane.buffer = s.lane.buffer ∧ (stopInput s).lane.grant = s.lane.grant ∧
    (stopInput s).lane.address = s.lane.address ∧ (stopInput s).lane.conflict = s.lane.conflict ∧
    (stopInput s).lane.upstreamHold = s.lane.upstreamHold := by
  unfold stopInput
  (repeat' split) <;> simp

@[simp] theorem goodHeader_lane (h : Header) :
    (goodHeader s h).lane.queue = s.lane.queue ∧ (goodHeader s h).lane.sending = s.lane.sending ∧
    (goodHeader s h).lane.buffer = s.lane.buffer ∧ (goodHeader s h).lane.grant = s.lane.grant ∧
    (goodHeader s h).lane.address = s.lane.address ∧ (goodHeader s h).lane.conflict = s.lane.conflict ∧
    (goodHeader s h).lane.upstreamHold = s.lane.upstreamHold := by
  unfold goodHeader
  (repeat' split) <;> simp

@[simp] theorem missFrame_lane (c : FrameCause) :
    (missFrame s c).lane.queue = s.lane.queue ∧ (missFrame s c).lane.sending = s.lane.sending ∧
    (missFrame s c).lane.buffer = s.lane.buffer ∧ (missFrame s c).lane.grant = s.lane.grant ∧
    (missFrame s c).lane.address = s.lane.address ∧ (missFrame s c).lane.conflict = s.lane.conflict ∧
    (missFrame s c).lane.upstreamHold = s.lane.upstreamHold := by
  unfold missFrame
  (repeat' split) <;> simp

@[simp] theorem badHeader_lane :
    (badHeader s).lane.queue = s.lane.queue ∧ (badHeader s).lane.sending = s.lane.sending ∧
    (badHeader s).lane.buffer = s.lane.buffer ∧ (badHeader s).lane.grant = s.lane.grant ∧
    (badHeader s).lane.address = s.lane.address ∧ (badHeader s).lane.conflict = s.lane.conflict ∧
    (badHeader s).lane.upstreamHold = s.lane.upstreamHold := by
  unfold badHeader
  (repeat' split) <;> simp

@[simp] theorem headerEnd_lane (l : List Byte) :
    (headerEnd s l).lane.queue = s.lane.queue ∧ (headerEnd s l).lane.sending = s.lane.sending ∧
    (headerEnd s l).lane.buffer = s.lane.buffer ∧ (headerEnd s l).lane.grant = s.lane.grant ∧
    (headerEnd s l).lane.address = s.lane.address ∧ (headerEnd s l).lane.conflict = s.lane.conflict ∧
    (headerEnd s l).lane.upstreamHold = s.lane.upstreamHold := by
  unfold headerEnd
  (repeat' split) <;> simp

@[simp] theorem feedLine_lane (f : Frame) (a : Nat) (l : List Color) :
    (feedLine s f a l).lane.queue = s.lane.queue ∧ (feedLine s f a l).lane.sending = s.lane.sending ∧
    (feedLine s f a l).lane.buffer = s.lane.buffer ∧ (feedLine s f a l).lane.grant = s.lane.grant ∧
    (feedLine s f a l).lane.address = s.lane.address ∧ (feedLine s f a l).lane.conflict = s.lane.conflict ∧
    (feedLine s f a l).lane.upstreamHold = s.lane.upstreamHold := by
  unfold feedLine
  (repeat' split) <;> simp

@[simp] theorem activeArrives_lane (l : List Byte) :
    (activeArrives s l).lane.queue = s.lane.queue ∧ (activeArrives s l).lane.sending = s.lane.sending ∧
    (activeArrives s l).lane.buffer = s.lane.buffer ∧ (activeArrives s l).lane.grant = s.lane.grant ∧
    (activeArrives s l).lane.address = s.lane.address ∧ (activeArrives s l).lane.conflict = s.lane.conflict ∧
    (activeArrives s l).lane.upstreamHold = s.lane.upstreamHold := by
  unfold activeArrives
  (repeat' split) <;> simp

/-! ### The settled timing, tables and frame -/

@[simp] theorem settleFrame_timing (c : FrameCause) (b : Bool) :
    (settleFrame s c b).timing = (timeFrame s (newNumber s c) (startsMissed c)).timing := by
  unfold settleFrame
  cases c <;> simp [timeFrame, newNumber]

@[simp] theorem frameStart_timing (c : FrameCause) (b : Bool) :
    (frameStart s c b).timing = (timeFrame s (newNumber s c) (startsMissed c)).timing := by
  unfold frameStart
  simp

@[simp] theorem frameStart_tables (c : FrameCause) (b : Bool) :
    (frameStart s c b).tables = (settleFrame s c b).tables := by
  unfold frameStart
  simp

@[simp] theorem frameStart_audit (c : FrameCause) (b : Bool) :
    (frameStart s c b).audit = (settleFrame s c b).audit := by
  unfold frameStart
  simp

@[simp] theorem frameStart_kept (c : FrameCause) (b : Bool) : (frameStart s c b).kept = (keepFlags s).kept := by
  unfold frameStart settleFrame keepFlags
  simp only [failInFlight_frame]
  cases h : s.frame <;> simp

end Sys2Proof.Machine
end

