-- ==== Sys2Proof/Laws/Stores.lean ====
section
/-! SUPPORT. What the events of the input port and of the timers leave of the stores, said once: `StoresKept s t`. -/

namespace Sys2Proof.Machine

/-- No event of the input port or of a timer gives or takes a block, lengthens the capture queue or changes the size of a store. -/
structure StoresKept (s t : State) : Prop where
  queue : t.capture.queue.length ≤ s.capture.queue.length
  slots : t.glyphs.slots.length = s.glyphs.slots.length
  blocks : sortedKeys s.photos.directory = true → blockLists t.photos.directory = blockLists s.photos.directory
  free : t.photos.free = s.photos.free
  memory : Memory.wf s.photos.memory = true → Memory.wf t.photos.memory = true
  stock : t.tables.stock = s.tables.stock
  references : t.photos.refCounts.length = s.photos.refCounts.length ∨ t.photos.refCounts.length = 256
  gamma : t.output.gamma = s.output.gamma

namespace StoresKept

theorem of_eq {s t : State} (h : t.capture = s.capture ∧ t.glyphs = s.glyphs ∧ t.photos = s.photos ∧
    t.tables.stock = s.tables.stock ∧ t.output.gamma = s.output.gamma) : StoresKept s t := by
  obtain ⟨h1, h2, h3, h4, h5⟩ := h
  exact ⟨by rw [h1], by rw [h2], fun _ => by rw [h3], by rw [h3], fun h => by rw [h3]; exact h, h4, by rw [h3]; simp, h5⟩

theorem refl (s : State) : StoresKept s s := of_eq ⟨rfl, rfl, rfl, rfl, rfl⟩

theorem of_captured {s t : State} (h : Captured s t) : StoresKept s t := by
  refine ⟨h.queue, h.slots, h.blocks, h.counts.1, h.memory, ?_, .inl (by rw [h.counts.2.1]), ?_⟩
  all_goals
    obtain ⟨_, _, _, _, _, rfl⟩ := h.shape
    rfl

theorem trans {s t u : State} (h : StoresKept s t) (h' : StoresKept t u) : StoresKept s u where
  queue := h'.queue.trans h.queue
  slots := h'.slots.trans h.slots
  blocks hs := by rw [h'.blocks ((sortedKeys_of_blockLists (h.blocks hs)).trans hs), h.blocks hs]
  free := h'.free.trans h.free
  memory hm := h'.memory (h.memory hm)
  stock := h'.stock.trans h.stock
  references := by
    rcases h'.references with h1 | h1
    · rw [h1]; exact h.references
    · exact .inr h1
  gamma := h'.gamma.trans h.gamma

theorem recount (s : State) (b : Bank) : StoresKept s (s.recount b) :=
  ⟨le_rfl, rfl, fun _ => rfl, rfl, fun h => h, rfl, .inr (by simp [State.recount, allReferences, Config.photoIds]), rfl⟩

theorem expireCounts (s : State) : StoresKept s (expireCounts s) := by
  unfold Machine.expireCounts
  split
  · exact trans (t := { s with tables := { s.tables with countsExpire := false } }) (of_eq ⟨rfl, rfl, rfl, rfl, rfl⟩)
      (recount _ _)
  · exact refl s

theorem settleTake (s : State) (n : FrameNo) (c : Bool) : StoresKept s (settleTake s n c) := by
  unfold Machine.settleTake
  split
  · exact refl s
  · split
    · exact of_eq ⟨rfl, rfl, rfl, rfl, rfl⟩
    · split
      · refine trans (t := { s with
          tables := { s.tables with live := s.tables.staged, stagedState := .clean, pendingTake := none } }) ?_
          (trans (recount _ s.tables.staged) ?_)
        · exact of_eq ⟨rfl, rfl, rfl, rfl, rfl⟩
        · exact of_eq ⟨rfl, rfl, rfl, rfl, rfl⟩
      · exact refl s

theorem auditFrame (s : State) : StoresKept s (auditFrame s) := by
  refine of_eq ⟨by simp, by simp, by simp, ?_, by simp⟩
  unfold Machine.auditFrame
  (repeat' split) <;> rfl

theorem samplePanel (s : State) : StoresKept s (samplePanel s) := by
  refine of_eq ⟨by simp, by simp, by simp, by simp, ?_⟩
  unfold Machine.samplePanel
  extract_lets level
  (repeat' split) <;> rfl

theorem stepBacklight (s : State) : StoresKept s (stepBacklight s) := by
  refine of_eq ⟨by simp, by simp, by simp, by simp, ?_⟩
  unfold Machine.stepBacklight
  (repeat' split) <;> rfl

theorem settleFrame (s : State) (c : FrameCause) (b : Bool) : StoresKept s (settleFrame s c b) := by
  unfold Machine.settleFrame
  refine trans (of_captured (failInFlight_captured s .lost)) (trans (t := keepFlags (failInFlight s .lost)) ?_
    (trans (auditFrame _) (trans (t := timeFrame _ _ _) ?_ (trans (expireCounts _) (settleTake _ _ _)))))
  · exact of_eq (by simp)
  · exact of_eq (by simp)

theorem frameStart (s : State) (c : FrameCause) (b : Bool) : StoresKept s (frameStart s c b) := by
  unfold Machine.frameStart
  refine trans (settleFrame s c b) (trans (t := beginFrame (Machine.settleFrame s c b) (frameKind c b)) (of_eq (by simp))
    (trans (samplePanel _) (trans (stepBacklight _) (trans (of_captured (armIfGood_captured _ c)) ?_))))
  exact of_eq (by simp)

theorem enter (s : State) (l : LinkState) (m : Nat) : StoresKept s (s.enter l m) := of_eq (by simp)

theorem goodHeader (s : State) (h : Header) : StoresKept s (goodHeader s h) := by
  unfold Machine.goodHeader
  split
  · exact trans (of_eq (by simp)) (frameStart _ _ _)
  · exact trans (enter s _ _) (frameStart _ _ _)
  · split
    · exact of_eq (by simp)
    · exact trans (t := enterLive s) (of_eq (by simp)) (frameStart _ _ _)

theorem missFrame (s : State) (c : FrameCause) : StoresKept s (missFrame s c) := by
  unfold Machine.missFrame
  split
  · exact trans (enter s _ _) (frameStart _ _ _)
  · split
    · exact trans (of_eq (by simp)) (frameStart _ _ _)
    · exact trans (t := enterStandalone s) (of_eq (by simp)) (frameStart _ _ _)

theorem headerEnd (s : State) (l : List Byte) : StoresKept s (headerEnd s l) := by
  unfold Machine.headerEnd
  simp only
  split
  · exact trans (of_eq (by simp)) (goodHeader _ _)
  · unfold badHeader
    split
    · exact of_eq (by simp)
    · exact of_eq (by simp)
    · exact trans (of_eq (by simp)) (missFrame _ _)

theorem stopInput (s : State) : StoresKept s (stopInput s) := by
  unfold Machine.stopInput
  split
  · have h : StoresKept (closeInput s) (failInFlight (closeInput s) .lost) := of_captured (failInFlight_captured _ _)
    exact trans (trans (of_eq (by simp)) h) (of_eq (by simp))
  · exact refl s

theorem feedLine (s : State) (f : Frame) (a : Nat) (l : List Color) : StoresKept s (feedLine s f a l) := by
  unfold Machine.feedLine
  split
  · next n _ =>
    exact trans (t := composeLine s n _) (of_eq (by simp)) (of_captured (captureLine_captured _ _ _ _))
  · exact of_captured (captureLine_captured _ _ _ _)

theorem activeArrives (s : State) (l : List Byte) : StoresKept s (activeArrives s l) := by
  unfold Machine.activeArrives
  split
  · next a _ =>
    have h : StoresKept s { s with receiver := { s.receiver with position := .lines (a + 1) } } :=
      of_eq ⟨rfl, rfl, rfl, rfl, rfl⟩
    simp only
    split
    · split
      · exact trans h (feedLine _ _ _ _)
      · exact h
    · exact h
  · exact refl s

end StoresKept

end Sys2Proof.Machine
end

