-- ==== Sys2Proof/Laws/Begins.lean ====
section
/-! SUPPORT. How the Command Processor comes to rest (`Drains`), and the one form of every row that begins a frame
(`BeginsFrame`): a frame start on a state that differs in what the row itself has set, then the packets that wait. -/

namespace Sys2Proof.Machine

/-! ### Taking the packets that wait -/

/-- No command puts a packet into the intake queue. -/
theorem carryOut_intake_le (code : Byte) (p : List Byte) (s : State) :
    (carryOut code p s).state.intake.length ≤ s.intake.length := by
  have h := carryOut_carried code p s
  generalize (carryOut code p s).state = t at h
  cases h <;> first | exact le_rfl | exact Nat.zero_le _ | skip
  · simp only [resetTables, State.raiseIf_intake, le_refl]
  · simp only [resetFull, State.raiseIf_intake, resetBlocks, State.reset, List.length_nil, Nat.zero_le]

theorem takePacket_eq (s : State) (k : Packet) : takePacket s k = closing s k (carryOut k.code k.payload s) := rfl

theorem closing_intake (s : State) (k : Packet) (t : Taken) : (closing s k t).intake = t.state.intake := by
  unfold closing
  split <;> rfl

theorem takePackets_drains (n : Nat) (s : State) (h : s.intake.length ≤ n) : Drains s (takePackets n s) := by
  induction n generalizing s with
  | zero => exact .idle s (.inr (List.length_eq_zero_iff.1 (by omega)))
  | succ n ih =>
    unfold takePackets
    split
    · next f k rest hf hq =>
      split
      · next hst =>
        rw [Bool.and_eq_true] at hst
        exact .stalled s k rest hq hst.1 ((replyFull_iff s).1 hst.2)
      · next hst =>
        refine .taken s _ k rest (by rw [hf]; rfl) hq (fun ha => ?_) (ih _ ?_)
        · exact (replyFull_false_iff s).1 (by simpa [ha] using hst)
        · rw [closing_intake]
          refine (carryOut_intake_le ..).trans ?_
          rw [hq] at h
          simpa using h
    · next hno =>
      cases hf : s.frame with
      | none => exact .idle s (.inl hf)
      | some f =>
        cases hq : s.intake with
        | nil => exact .idle s (.inr hq)
        | cons k rest => exact absurd hq (hno f k rest hf)

/-- The Command Processor, once it has run, is at rest. -/
theorem process_drains (s : State) : Drains s s.process := takePackets_drains _ s le_rfl

/-- Where the Command Processor has come to rest, packets wait only before the first frame start or behind a stalled head. -/
theorem Drains.intakeAtRest {s t : State} (h : Drains s t) : IntakeAtRest t := by
  induction h with
  | idle s h => exact h.elim (fun hf => .inr (.inl hf)) .inl
  | stalled s k rest hq ha hl => exact .inr (.inr ⟨k, rest, hq, ha, hl⟩)
  | taken _ _ _ _ _ _ _ _ ih => exact ih

/-! ### The rows that begin a frame -/

/-- What a row that begins a frame has set when the frame starts: the ports and the pins, the position and the canvas of a header
line, the link state, counts and clock, and LINK_CHANGED where the link state changes. -/
def atFrameStart (s : State) (i : Instr) (receiver : LinkReceiver) (timing : FrameTiming) (changed : Bool) : State :=
  { s with
    pins := pinsOf s i
    out := { noOutputs with through := streamOf i }
    receiver := receiver
    timing := timing
    lane := { s.lane with events := { s.lane.events with linkChanged := s.lane.events.linkChanged || changed } } }

/-- A frame start that a row makes, by what makes it. -/
inductive Begun (s : State) (i : Instr) : State → FrameCause → Bool → Prop where
  /-- A good header line, with its canvas held. -/
  | good (line : List Byte) (h : Header) (timing : FrameTiming) (changed : Bool) : streamOf i = [.line line] →
    parseHeader line = some h →
    Begun s i (atFrameStart s i ⟨.lines 0, some (h.width, h.height)⟩ timing changed) (.goodHeader h.number) false
  /-- A bad header line or a timer. -/
  | other (receiver : LinkReceiver) (timing : FrameTiming) (changed standalone : Bool) (cause : FrameCause) :
    (∀ line, streamOf i = [.line line] → parseHeader line = none) → (∀ n, cause ≠ .goodHeader n) →
    Begun s i (atFrameStart s i receiver timing changed) cause standalone

/-- A miss that begins a frame. -/
theorem begun_miss {s : State} {i : Instr} {receiver : LinkReceiver} {cause : FrameCause}
    (h : ∀ timing changed standalone, Begun s i (atFrameStart s i receiver timing changed) cause standalone) :
    ∃ v standalone, Begun s i v cause standalone ∧
      missFrame
        { s with pins := pinsOf s i, out := { noOutputs with through := streamOf i }, receiver := receiver } cause =
        frameStart v cause standalone := by
  unfold missFrame
  simp only
  split
  · exact ⟨_, _, h { s.timing with link := .lossWait, good := 0, miss := 1 } true false, by
      simp only [atFrameStart, Bool.or_true, State.enter, State.raise, EventSet.raise]⟩
  · split
    · exact ⟨_, _, h { s.timing with miss := s.timing.miss + 1 } false false, by simp only [atFrameStart, Bool.or_false]⟩
    · exact ⟨_, _, h { s.timing with
          link := .standalone, good := 0, miss := 0, localTimer := true, headerTimer := true } true true, by
        simp only [atFrameStart, Bool.or_true, enterStandalone, State.enter, State.raise, EventSet.raise]⟩

/-- A header line that begins a frame. -/
theorem begun_line {s : State} {i : Instr} {line : List Byte} (hi : streamOf i = [.line line])
    (hl : s.timing.link = .live ∨ s.timing.link = .lossWait ∨
      ((parseHeader line).isSome = true ∧
        ((s.timing.link = .search ∧ 2 ≤ s.timing.good + 1) ∨ (s.timing.link = .standalone ∧ 8 ≤ s.timing.good + 1)))) :
    ∃ v cause standalone, Begun s i v cause standalone ∧
      headerEnd { s with pins := pinsOf s i, out := { noOutputs with through := [.line line] } } line =
        frameStart v cause standalone := by
  unfold headerEnd
  simp only
  split
  · next h hp =>
    have hg : ∀ timing changed, Begun s i (atFrameStart s i ⟨.lines 0, some (h.width, h.height)⟩ timing changed)
        (.goodHeader h.number) false := fun timing changed => .good line h timing changed hi hp
    have link : (setClock s.timing h).link = s.timing.link := by unfold setClock; split <;> rfl
    have good : (setClock s.timing h).good = s.timing.good := by unfold setClock; split <;> rfl
    unfold goodHeader
    simp only [link, good]
    split
    · exact ⟨_, _, _, hg { setClock s.timing h with miss := 0 } false, by
        simp only [atFrameStart, hi, Bool.or_false, link, good]⟩
    · exact ⟨_, _, _, hg { setClock s.timing h with link := .live, good := 0, miss := 0 } true, by
        simp only [atFrameStart, hi, Bool.or_true, State.enter, State.raise, EventSet.raise]⟩
    · next h1 h2 =>
      split
      · next hc =>
        rcases hl with hl | hl | ⟨-, ⟨hl, hn⟩ | ⟨hl, hn⟩⟩
        · exact absurd hl h1
        · exact absurd hl h2
        · rw [hl] at hc; simp only [goodTarget] at hc; omega
        · rw [hl] at hc; simp only [goodTarget] at hc; omega
      · exact ⟨_, _, _, hg { setClock s.timing h with
            link := .live, good := 0, miss := 0, localTimer := false, headerTimer := true } true, by
          simp only [atFrameStart, hi, Bool.or_true, enterLive, State.enter, State.raise, EventSet.raise]⟩
  · next hp =>
    have ho : ∀ timing changed standalone, Begun s i
        (atFrameStart s i { s.receiver with position := .lines 0 } timing changed) .badHeader standalone :=
      fun timing changed standalone => .other _ timing changed standalone _
        (fun l hl' => by rw [hi] at hl'; cases hl'; exact hp) (by intro n hn; cases hn)
    obtain ⟨v, standalone, hv, he⟩ := begun_miss (s := s) (i := i) (cause := .badHeader)
      (receiver := { s.receiver with position := .lines 0 }) ho
    unfold badHeader
    have hk : s.timing.link = .live ∨ s.timing.link = .lossWait := by
      rcases hl with hl | hl | ⟨hl, -⟩
      · exact .inl hl
      · exact .inr hl
      · rw [hp] at hl; cases hl
    rw [← hi]
    rcases hk with hk | hk <;> simp only [hk]
    all_goals exact ⟨v, _, standalone, hv, he⟩

/-- Every row that begins a frame is a frame start on the state as the row leaves it, then the packets that wait. -/
theorem exec_beginsFrame {s : State} {i : Instr} (hr : s.resetn = false) (h : BeginsFrame s i) :
    ∃ v cause standalone, Begun s i v cause standalone ∧ exec i s = .next (frameStart v cause standalone).process := by
  have line : ∀ l, streamOf i = [.line l] → s.receiver.position = .awaitHeader →
      (s.timing.link = .live ∨ s.timing.link = .lossWait ∨
        ((parseHeader l).isSome = true ∧
          ((s.timing.link = .search ∧ 2 ≤ s.timing.good + 1) ∨
            (s.timing.link = .standalone ∧ 8 ≤ s.timing.good + 1)))) →
      exec i s = .next (lineArrives (s.begin.latch (pinsOf s i)) l) →
      ∃ v cause standalone, Begun s i v cause standalone ∧
        exec i s = .next (frameStart v cause standalone).process := by
    intro l hi hp hl he
    obtain ⟨v, cause, standalone, hv, hh⟩ := begun_line hi hl
    refine ⟨v, cause, standalone, hv, ?_⟩
    have hread : lineArrives (s.begin.latch (pinsOf s i)) l =
        headerArrives ((s.begin.latch (pinsOf s i)).repeatThrough (.line l)) l := by
      have hr' : (s.begin.latch (pinsOf s i)).resetn = false := hr
      have hp' : ((s.begin.latch (pinsOf s i)).repeatThrough (.line l)).receiver.position = .awaitHeader := hp
      simp only [lineArrives, hr', Bool.false_eq_true, if_false, readLine, hp']
    rw [he, ← hh, hread]
    rfl
  cases i <;> simp only [BeginsFrame] at h
  case headerLineEnd l p => exact line l rfl h.1 h.2 rfl
  case packetLine l p => exact line l rfl h.1 h.2 rfl
  case activeLine l => exact line l rfl h.1 h.2 rfl
  case headerTimerExpires p =>
    obtain ⟨v, standalone, hv, he⟩ := begun_miss (s := s) (i := .headerTimerExpires p) (receiver := s.receiver)
      (cause := .headerTimer) fun timing changed standalone =>
        .other _ timing changed standalone _ (fun l hl => by cases hl) (by intro n hn; cases hn)
    refine ⟨v, _, standalone, hv, ?_⟩
    rw [← he]
    rcases h with ⟨ht, hk | hk⟩ <;> simp only [exec, execHeaderTimerExpires, ht, hk] <;> rfl
  case localFrameTimerExpires p =>
    refine ⟨atFrameStart s (.localFrameTimerExpires p) s.receiver s.timing false, .localTimer, false,
      .other _ _ _ _ _ (fun l hl => by cases hl) (by intro n hn; cases hn), ?_⟩
    simp only [atFrameStart, Bool.or_false]
    rcases h with ⟨ht, hk | hk⟩ <;> simp only [exec, execLocalFrameTimerExpires, ht, hk] <;> rfl

end Sys2Proof.Machine
end

