-- ==== Sys2Proof/Tests/Slice0.lean ====
section
/-! SUPPORT. Tests. The values expected come from the spec: its worked cases and tables, or a calculation by hand from its rules.
The theorems named `witness_…` show states and operands that meet the hypotheses of the statement of that name, clause by
clause, at the ends of their ranges. -/

set_option Elab.async false

namespace Sys2Proof.Tests

open Sys2Proof Sys2Proof.Machine

/-! ### Small states -/

/-- The frame right after the first local frame start of a node with empty tables, no line of it composed yet. -/
def frame0 : Frame :=
  { snap := snapshotOf State.reset, tiles := [], kind := .localFrame, inputOpen := false, nextLine := 0 }

/-- A node in SEARCH with a frame in progress. -/
def inFrame : State := { State.reset with frame := some frame0 }

/-- A node in LIVE in frame 100, begun by a good header for a canvas of 4 × 2, its header just read. -/
def live : State :=
  { inFrame with
    frame := some { frame0 with kind := .goodHeader, inputOpen := true }
    timing := { inFrame.timing with link := .live, localTimer := false, number := 100 }
    receiver := ⟨.lines 0, some (4, 2)⟩ }

/-- The same node with the next frame's mark arrived. -/
def awaiting : State := { live with receiver := ⟨.awaitHeader, some (4, 2)⟩ }

/-- The same node in LOSS_WAIT with a miss count. -/
def lossWait (misses : Nat) : State :=
  { awaiting with timing := { awaiting.timing with link := .lossWait, miss := misses } }

/-- The same node in SEARCH or STANDALONE with a good count. -/
def counting (link : LinkState) (good : Nat) : State :=
  { awaiting with timing := { State.reset.timing with link := link, good := good } }

/-- A node with a command at the front of its queue. -/
def ready (i : Instr) : State := { inFrame with pending := [i] }

/-- To every node, answered by node 0. -/
def toAll : PacketHead := ⟨15, 0, 7⟩

/-- To every node, answered by none. -/
def toNone : PacketHead := ⟨15, 15, 7⟩

def pins0 : Pins := ⟨false, 5⟩

def pins1 : Pins := ⟨true, 5⟩

/-- The state after a command. -/
def after (i : Instr) (s : State) : State :=
  match exec i s with
  | .next t => t
  | _ => s

/-- Result and data of the newest reply. -/
def answer (s : State) : Option (Byte × List Byte) := s.lane.queue.getLast?.map fun r => (r.result, r.data)

def aRecord : ReplyRecord := ⟨3, 1, 0x40, 0, 0, [], 0⟩

/-- Eight queued records: a full reply queue. -/
def fullLane : State := { inFrame with lane := { inFrame.lane with queue := List.replicate 8 aRecord } }

/-! ### Payloads, written from the layouts of sections 11.6 and 11.7 -/

/-- Item 511, SIMPLE, prices absent, 999,999, 0 and 549, default photo 255. -/
def simplePut : List Byte :=
  [0x01, 0xFF, 0, 0, 0, 0, 0, 1, 0x0F, 0x42, 0x3F, 1, 0, 0, 0, 1, 0, 0x02, 0x25, 0, 0, 0, 0, 0, 0, 0, 0, 0, 0, 0, 0, 0, 0, 0, 0,
   1, 0xFF]

/-- Item 40, COMBO of 12, 13 and 14, discount 150. -/
def comboPut : List Byte :=
  [0, 40, 1, 0, 0, 0, 0, 0, 0, 0, 0, 0, 0, 0, 0, 0, 0, 0, 0, 3, 0, 12, 1, 0, 13, 1, 0, 14, 1, 0, 0, 0, 0, 0, 150, 0, 0]

/-- Page 7, tile 47, PHOTO, x −2048, y 4095, 2048 × 1, z 200, item 511, photo 20, anchor (−512, 2047), fill. -/
def photoTilePut : List Byte :=
  [7, 47, 0, 0xF8, 0, 0x0F, 0xFF, 0x08, 0, 0, 1, 200, 1, 0x01, 0xFF, 1, 20, 0xFE, 0, 0x07, 0xFF, 1, 255, 255, 255, 64, 192, 2,
   2, 15, 0, 0, 0, 0, 0, 0, 0, 0, 0]

/-- Page 1, tile 3, PRICE of item 40 at (0, 0), 160 × 40, font 3, CENTER, pad 3, text top 2047, tracking 15. -/
def priceTilePut : List Byte :=
  [1, 3, 1, 0, 0, 0, 0, 0, 160, 0, 40, 0, 1, 0, 40, 0, 0, 0, 0, 0, 0, 0, 0, 0, 0, 0, 255, 0, 0, 0, 3, 255, 255, 255, 2, 3, 0x07,
   0xFF, 15]

/-- Page 0, tile 0, PANEL, 1 × 2048, opaque. -/
def panelTilePut : List Byte :=
  [0, 0, 2, 0, 0, 0, 0, 0, 1, 8, 0, 0, 0, 0, 0, 0, 0, 0, 0, 0, 0, 0, 0, 0, 0, 0, 255, 0, 0, 0, 0, 0, 0, 0, 0, 0, 0, 0, 0]

/-- The format of section 4.5: BEFORE, two minor digits, ENDING, step 10, ending 9, tax 825. -/
def mealFormatPut : List Byte := [1, 2, 0, 3, 10, 9, 1, 3, 0x39]

/-- Settings at the ends of their ranges: viewport (8191, 4095) 2048 × 1, 24 frames, 200 ms, LAX. -/
def settingsPut : List Byte :=
  [0x1F, 0xFF, 0x0F, 0xFF, 8, 0, 0, 1, 1, 2, 3, 24, 200, 1, 1, 0, 1, 0, 1, 96, 1, 255]

/-- Photo 20 of 100 × 70 with no key colour (section 5.5). -/
def photoOpen20 : List Byte := [20, 0, 100, 0, 70, 0, 0, 0, 0]

/-- Rows 0–31 of photo 20 from the canvas at (1920, 40). -/
def capture20 : List Byte := [20, 0x07, 0x80, 0, 40, 0, 0, 0, 32]

/-- Slot 11 of font 3 from a cell of 64 × 96 at (8128, 4000). -/
def glyphLoad311 : List Byte := [3, 11, 0x1F, 0xC0, 0x0F, 0xA0, 64, 96]

/-! ### WellFormed: each check refuses an ill-formed command -/

theorem test_wf_payload_of_241_bytes : (Instr.itemPut toAll (List.replicate 241 0)).wf = false := by decide +kernel

theorem test_wf_payload_of_240_bytes : (Instr.itemPut toAll (List.replicate 240 0)).wf = true := by decide +kernel

theorem test_wf_query_of_another_kind : (Instr.queryNode toAll [1, 0, 0, 0]).wf = false := by decide +kernel

theorem test_wf_query_too_long : (Instr.queryNode toAll (List.replicate 241 0)).wf = false := by decide +kernel

theorem test_wf_reset_of_another_scope :
    (Instr.nodeResetTables toAll [1]).wf = false ∧ (Instr.nodeResetFull toAll [0] pins0).wf = false := by decide +kernel

theorem test_wf_assigned_code : (Instr.unknownCommand toAll 0x42 []).wf = false := by decide +kernel

theorem test_wf_unknown_too_long : (Instr.unknownCommand toAll 0x43 (List.replicate 241 0)).wf = false := by
  decide +kernel

theorem test_wf_packet_line_kind : (Instr.packetLine [0x01] pins0).wf = false := by decide +kernel

theorem test_wf_active_line_kind : (Instr.activeLine [0x02]).wf = false := by decide +kernel

/-! ### The CRC, the packet and the header (sections 11.2 to 11.5) -/

/-- The check values of R195. -/
theorem test_crc_check_values :
    crc16 [0x31, 0x32, 0x33, 0x34, 0x35, 0x36, 0x37, 0x38, 0x39] = 0x29B1 ∧ crc16 [] = 0xFFFF := by decide +kernel

/-- A packet's fields stand where section 11.3 puts them. -/
theorem test_packet_fields :
    (encodePacket ⟨⟨15, 2, 7⟩, 0x31, [20]⟩).take 5 = [0xF2, 7, 0x31, 1, 20] ∧
    parsePacket (encodePacket ⟨⟨15, 2, 7⟩, 0x31, [20]⟩ ++ [0, 0]) = some ⟨⟨15, 2, 7⟩, 0x31, [20]⟩ := by decide +kernel

/-- A header's fields stand where section 11.2 puts them; hour 24 does not make it bad, width 0 does (R141). -/
theorem test_header_fields :
    parseHeader (encodeHeader ⟨0x1234, 24, 59, 59, 8192, 4096⟩) = some ⟨0x1234, 24, 59, 59, 8192, 4096⟩ ∧
    parseHeader (encodeHeader ⟨0x1234, 1, 2, 3, 0, 1080⟩) = none := by decide +kernel

/-- A record's fields stand where section 11.4 puts them, and a wrong length does not check. -/
theorem test_record_fields :
    let r : ReplyRecord := ⟨3, 9, 0x40, 4, 0x123456, [0xAB], crc16 [3, 9, 0x40, 4, 0x12, 0x34, 0x56, 1, 0xAB]⟩
    (encodeRecord r).take 9 = [3, 9, 0x40, 4, 0x12, 0x34, 0x56, 1, 0xAB] ∧ parseRecord (encodeRecord r) = some r ∧
    parseRecord (encodeRecord r ++ [0]) = none := by decide +kernel

/-- The item and tile payloads above are what QUERY sends of the records they place. -/
theorem test_records_round_trip :
    ((parseItem simplePut).map fun r => encodeItem r.1 r.2) = some simplePut ∧
    ((parseItem comboPut).map fun r => encodeItem r.1 r.2) = some comboPut ∧
    ((parseTile photoTilePut).map fun r => encodeTile r.1 r.2.1 r.2.2) = some photoTilePut ∧
    ((parseTile priceTilePut).map fun r => encodeTile r.1 r.2.1 r.2.2) = some priceTilePut ∧
    ((parseTile panelTilePut).map fun r => encodeTile r.1 r.2.1 r.2.2) = some panelTilePut ∧
    (parseFormat mealFormatPut).map encodeFormat = some mealFormatPut ∧
    (parseSettings settingsPut).map encodeSettings = some settingsPut := by decide +kernel

/-- The bits of the summary (section 11.4): LIVE is link state 1, FAILED staged state 4, a pending take, three events. -/
theorem test_summary_bits :
    summary
      { live with
        tables := { live.tables with stagedState := .failed, pendingTake := some 5 }
        lane :=
          { live.lane with
            conflict := true
            events := { noEvents with packetCrc := true, takeDone := true, captureFailed := true } } } = 0x845890 := by decide +kernel

/-! ### Prices (chapter 4) -/

/-- The bank of section 4.5. -/
def mealBank : Bank :=
  { emptyBank with
    items :=
      [(12, ⟨.simple ⟨none, some 549, none, none⟩, none⟩), (13, ⟨.simple ⟨none, some 289, none, none⟩, none⟩),
       (14, ⟨.simple ⟨none, some 199, none, none⟩, none⟩), (40, ⟨.combo [⟨12, 1⟩, ⟨13, 1⟩, ⟨14, 1⟩] 150, none⟩)]
    factors := ⟨1000, 1080, 1000, 1000⟩
    format := ⟨.before, .two, false, .ending, 10, 9, true, 825⟩ }

/-- Section 4.5: the burger prints $6.49 and the meal $10.59; in column 0 neither is offered. -/
theorem test_meal_prices :
    tget (priceCache mealBank 1) 12 = some (.priced 649 [11, 6, 10, 4, 9]) ∧
    tget (priceCache mealBank 1) 40 = some (.priced 1059 [11, 1, 0, 10, 5, 9]) ∧
    tget (priceCache mealBank 0) 40 = some .notOffered := by decide +kernel

/-- Section 4.7: the factor overflow, the largest printable price, short form and whole units. -/
theorem test_price_limits :
    adjust 990500 1010 = 1000405 ∧
    glyphSequence { defaultFormat with symbol := .before } 999999 = [11, 9, 9, 9, 9, 10, 9, 9] ∧
    glyphSequence { defaultFormat with symbol := .after, shortForm := true } 0 = [0, 11] ∧
    glyphSequence { defaultFormat with minor := .zero } 1059 = [1, 0, 5, 9] ∧
    glyphSequence defaultFormat 5 = [0, 10, 0, 5] := by decide +kernel

/-- The tables of R71 and R72. -/
theorem test_rounding :
    roundStep { defaultFormat with rounding := .up, step := 25 } 1001 = 1025 ∧
    roundStep { defaultFormat with rounding := .up, step := 25 } 1000 = 1000 ∧
    roundStep { defaultFormat with rounding := .up, step := 25 } 999990 = 1000000 ∧
    roundStep { defaultFormat with rounding := .ending, step := 25, ending := 5 } 999990 = 1000005 ∧
    roundStep { defaultFormat with rounding := .ending, step := 10, ending := 9 } 5 = 9 := by decide +kernel

/-- Section 4.6: the meal in font 0 with tracking 2 takes 156 columns; tiles A, B and C. -/
theorem test_text_plans :
    let width : Nat → Nat := fun g => if g = 11 then 24 else if g = 10 then 10 else 28
    let plan (align : Align) (w : Nat) : TextPlan :=
      textPlan (fun _ => true) width (some (.priced 1059 [11, 1, 0, 10, 5, 9])) ⟨0, ⟨0, 0, 0⟩, align, 0, 0, 2⟩ w
    plan .right 160 = .text 4 156 ∧ plan .center 160 = .text 2 156 ∧ plan .left 150 = .tooWide := by decide +kernel

/-! ### Blending, gamma, the budget and the ring (chapters 6 and 8) -/

/-- Section 6.7: the photo pixel, the same over a fill, the keyed pixel, DIM and the gamma triple. -/
theorem test_blending :
    blend ⟨200, 100, 50⟩ ⟨0, 0, 255⟩ 192 = ⟨151, 75, 101⟩ ∧
    blend ⟨200, 100, 50⟩ (blend ⟨255, 255, 255⟩ ⟨0, 0, 255⟩ 64) 192 = ⟨166, 91, 101⟩ ∧
    photoAlpha (some ⟨0, 255, 0⟩) ⟨0, 255, 0⟩ 192 = 0 ∧ photoAlpha (some ⟨0, 255, 0⟩) ⟨0, 254, 0⟩ 192 = 192 ∧
    dimColor 128 ⟨200, 100, 50⟩ = ⟨62, 62, 62⟩ ∧ blend ⟨62, 62, 62⟩ ⟨0, 0, 255⟩ 192 = ⟨47, 47, 110⟩ ∧
    gammaPixel State.reset.output.gamma ⟨166, 91, 101⟩ = ⟨666, 365, 405⟩ := by decide +kernel

/-- R157, R158: entries 0, 1, 128 and 255 of a default gamma table. -/
theorem test_default_gamma :
    defaultGamma[0]? = some 0 ∧ defaultGamma[1]? = some 4 ∧ defaultGamma[128]? = some 514 ∧
    defaultGamma[255]? = some 1023 := by decide +kernel

/-- Section 6.8: the demand of tile (10, 2), x −112 with a photo of 512 columns, is 400; none below its photo. -/
theorem test_line_demand :
    let t : TileRec := ⟨.photo (some 2) 0 0, -112, 200, 512, 300, 10, none, none, 255, .always, .keep, 0⟩
    placedDemand (clipRect t 1920 1080) t 0 0 512 300 200 = 400 ∧
    placedDemand (clipRect t 1920 1080) t 0 0 512 299 499 = 0 := by decide +kernel

/-- R129: with 600 left, a demand of 512 fits, the next of 400 is degraded, and one of 88 still fits. -/
theorem test_first_fit :
    let tile (id w : Nat) : TileEntry :=
      frameTile { snapshotOf State.reset with photos := [(id, .ready)] } id
        ⟨.photo (some id) 0 0, 0, 0, w, 1, 0, none, none, 255, .always, .keep, 0⟩
    let photo : PhotoRec := ⟨.ready, 512, 512, none, [], 512, .done, 0⟩
    let granted := grantTiles [(1, photo), (2, photo), (3, photo)] 0 600 [tile 1 512, tile 2 400, tile 3 88]
    granted.1.map Prod.snd = [false, true, false] ∧ granted.2 = 0 := by decide +kernel

/-- R119: half-period 15 shows frames 0–14 and hides frames 15–29; half-period 0 always shows. -/
theorem test_blink :
    blinkVisible 14 15 = true ∧ blinkVisible 15 15 = false ∧ blinkVisible 30 15 = true ∧ blinkVisible 15 0 = true := by
  decide +kernel

/-- R134: a ring of thickness 1 with margin 2 round a rect of 10 × 10 at (5, 5) runs from 3 to 16. -/
theorem test_ring :
    let h : Highlight := ⟨0, 2, 1, ⟨255, 0, 0⟩, 0⟩
    let t : TileRec := ⟨.panel, 5, 5, 10, 10, 0, none, none, 255, .always, .keep, 0⟩
    ringPixel h t 3 3 = true ∧ ringPixel h t 16 16 = true ∧ ringPixel h t 17 16 = false ∧ ringPixel h t 4 4 = false ∧
    ringPixel h t 2 3 = false := by decide +kernel

/-! ### The staged class -/

/-- R8: the record of an ITEM_PUT, the reply OK, and DIRTY. -/
theorem test_itemPut_places :
    let t := after (.itemPut toAll simplePut) inFrame
    tget t.tables.staged.items 511 = some ⟨.simple ⟨none, some 999999, some 0, some 549⟩, some 255⟩ ∧
    t.tables.stagedState = .dirty ∧ answer t = some (0, []) := by decide +kernel

theorem test_itemPut_combo :
    tget (after (.itemPut toAll comboPut) inFrame).tables.staged.items 40 =
      some ⟨.combo [⟨12, 1⟩, ⟨13, 1⟩, ⟨14, 1⟩] 150, none⟩ := by decide +kernel

/-- R9: NOT_FOUND is 04. -/
theorem test_itemDrop_not_found : answer (after (.itemDrop toAll [0, 5]) inFrame) = some (4, []) := by decide +kernel

theorem test_columnPut :
    (after (.columnPut toAll [3, 0x07, 0xD0]) inFrame).tables.staged.factors = ⟨1000, 1000, 1000, 2000⟩ := by decide +kernel

theorem test_formatPut :
    (after (.formatPut toAll mealFormatPut) inFrame).tables.staged.format = mealBank.format := by decide +kernel

theorem test_tilePut_places :
    tget (after (.tilePut toAll photoTilePut) inFrame).tables.staged.tiles 383 =
      some ⟨.photo (some 20) (-512) 2047, -2048, 4095, 2048, 1, 200, some 511, some ⟨⟨255, 255, 255⟩, 64⟩, 192, .soldOut,
        .hide, 15⟩ := by decide +kernel

theorem test_tileDrop_removes :
    (after (.tileDrop toAll [1, 3]) (after (.tilePut toAll priceTilePut) inFrame)).tables.staged.tiles = [] := by
  decide +kernel

theorem test_pageWipe_keeps_other_pages :
    ((after (.pageWipe toAll [1]) (after (.tilePut toAll panelTilePut)
      (after (.tilePut toAll priceTilePut) inFrame))).tables.staged.tiles.map Prod.fst) = [0] := by decide +kernel

/-- R22: two entries at one start minute are refused OUT_OF_RANGE. -/
theorem test_schedPut :
    (after (.schedPut toAll [1, 0x05, 0x9F, 7, 3, 200]) inFrame).tables.staged.schedule = [⟨1439, 7, 3, 200⟩] ∧
    answer (after (.schedPut toAll [2, 0, 9, 0, 0, 0, 0, 9, 1, 0, 0]) inFrame) = some (3, []) := by decide +kernel

theorem test_stageCopy_cleans :
    let t := after (.stageCopy toAll []) (after (.itemPut toAll simplePut) inFrame)
    t.tables.staged = emptyBank ∧ t.tables.stagedState = .clean := by decide +kernel

/-- R30, R31: AUDIT sets AUDITING and the first check runs from the next frame start. -/
theorem test_audit_starts :
    let t := after (.audit toAll []) inFrame
    t.tables.stagedState = .auditing ∧ t.audit.progress = some ⟨⟨true, true, true, true, true⟩, some 1, false⟩ ∧
    (after (.localFrameTimerExpires pins0) t).audit.progress = some ⟨⟨true, true, true, true, true⟩, some 1, true⟩ := by
  decide +kernel

/-- R40: TAKE in SEARCH is WRONG_STATE; STRICT before a pass is NOT_AUDITED. -/
theorem test_take_refusals :
    answer (after (.take toAll [0, 0, 101]) inFrame) = some (7, []) ∧
    answer (after (.take toAll [0, 0, 101]) live) = some (0x0A, []) := by decide +kernel

/-- R40: NEXT targets frame 101; AT the frame in progress lies outside the window. -/
theorem test_take_target :
    let passed : State := { live with tables := { live.tables with stagedState := .passed } }
    (after (.take toAll [1, 9, 9]) passed).tables.pendingTake = some 101 ∧
    answer (after (.take toAll [1, 9, 9]) passed) = some (0, [0, 101]) ∧
    answer (after (.take toAll [0, 0, 100]) passed) = some (0x0B, []) ∧
    answer (after (.take toAll [0, 0x10, 100]) passed) = some (0, [0x10, 100]) ∧
    answer (after (.take toAll [0, 0x10, 101]) passed) = some (0x0B, []) := by decide +kernel

theorem test_takeCancel :
    let pending : State := { live with tables := { live.tables with pendingTake := some 101 } }
    (after (.takeCancel toAll []) pending).tables.pendingTake = none ∧
    (after (.takeCancel toAll []) pending).lane.events = noEvents ∧
    answer (after (.takeCancel toAll []) live) = some (7, []) := by decide +kernel

/-! ### The immediate class -/

/-- R24: of two pairs for one item the later stands. -/
theorem test_stock_in_order :
    let t := after (.stock toAll [3, 0, 5, 1, 1, 0xFF, 1, 0, 5, 0]) inFrame
    t.tables.stock[5]? = some .available ∧ t.tables.stock[511]? = some .soldOut := by decide +kernel

theorem test_force_holds_and_releases :
    (after (.force toAll [1, 7, 3]) inFrame).context.override = some ⟨.untilBoundary, 7, 3⟩ ∧
    (after (.force toAll [2, 9, 9]) inFrame).context.override = none ∧
    answer (after (.force toAll [0, 8, 0]) inFrame) = some (3, []) := by decide +kernel

theorem test_highlight_slots :
    (after (.highlight toAll [1, 0, 47, 31, 16, 1, 2, 3, 30]) inFrame).context.high1 = some ⟨47, 31, 16, ⟨1, 2, 3⟩, 30⟩ ∧
    answer (after (.highlight toAll [0, 0, 47, 31, 17, 1, 2, 3, 30]) inFrame) = some (3, []) := by decide +kernel

/-- R164: the reply gives level, panel state, resolved target, and the override as now held. -/
theorem test_backlight_reply :
    answer (after (.backlight toAll [0, 77]) inFrame) = some (0, [0, 0, 200, 1, 77]) ∧
    answer (after (.backlight toAll [1, 77]) inFrame) = some (0, [0, 0, 200, 0, 0]) := by decide +kernel

theorem test_configPut :
    (after (.configPut toAll settingsPut) inFrame).context.settings =
      ⟨8191, 4095, 2048, 1, ⟨1, 2, 3⟩, 24, 200, .lax, ⟨true, false, true, false, true⟩, 96, 1, 255⟩ := by decide +kernel

theorem test_gammaPut :
    let t := after (.gammaPut toAll [1, 0, 255, 1, 0x03, 0xFF]) inFrame
    t.output.gamma.green[255]? = some 1023 ∧
    (after (.gammaPut toAll [2, 0, 0, 1, 0, 9]) inFrame).output.gamma.blue[0]? = some 9 ∧
    answer (after (.gammaPut toAll [1, 0, 255, 2, 0, 0, 0, 0]) inFrame) = some (3, []) := by decide +kernel

/-! ### The memory class (section 5.5) -/

/-- Photo 20 of 100 × 70 takes 4 × 3 blocks from the head, and leaves 6132. -/
theorem test_photoOpen :
    let t := after (.photoOpen toAll photoOpen20) inFrame
    (tget t.photos.directory 20).map PhotoRec.blocks = some [0, 1, 2, 3, 4, 5, 6, 7, 8, 9, 10, 11] ∧
    t.photos.free.take 2 = [12, 13] ∧ answer t = some (0, [0x17, 0xF4]) := by decide +kernel

/-- R94: the blocks come back at the tail. -/
theorem test_photoDrop :
    let t := after (.photoDrop toAll [20]) (after (.photoOpen toAll photoOpen20) inFrame)
    t.photos.directory = [] ∧ t.photos.free.head? = some 12 ∧ t.photos.free.getLast? = some 11 ∧
    answer t = some (0, [0x18, 0]) := by decide +kernel

/-- Rows 4 and 7 of section 5.5: the first strip is queued, and one out of row order refused. -/
theorem test_capture_row_order :
    let t := after (.capture toAll capture20) (after (.photoOpen toAll photoOpen20) inFrame)
    t.capture.queue = [.strip 20 1920 40 0 32] ∧
    answer (after (.capture toAll [20, 0x07, 0x80, 0, 40, 0, 0, 0, 32]) t) = some (0x0C, []) := by decide +kernel

theorem test_glyphLoad :
    let t := after (.glyphLoad toAll glyphLoad311) inFrame
    t.glyphs.slots[47]? = some (.loading []) ∧ t.capture.queue = [.glyph 3 11 8128 4000 64 96] ∧
    answer (after (.glyphLoad toAll glyphLoad311) t) = some (7, []) := by decide +kernel

theorem test_captureFlush :
    let t := after (.captureFlush toNone []) (after (.glyphLoad toNone glyphLoad311)
      (after (.capture toNone capture20) (after (.photoOpen toNone photoOpen20) inFrame)))
    t.capture = ⟨[], none⟩ ∧ t.glyphs.slots[47]? = some .empty ∧
    (tget t.photos.directory 20).map (fun r => (r.last, r.skipped)) = some (.flushed, 0) ∧
    t.lane.events.captureFailed = true := by decide +kernel

/-! ### The node class -/

/-- Section 11.8: the fixed lengths of the seven kinds of query data. -/
theorem test_query_lengths :
    let size (i : Instr) : Option Nat := (answer (after i inFrame)).map fun a => a.2.length
    size (.queryNode toAll [0, 0, 0, 0]) = some 39 ∧ size (.queryItem toAll [1, 1, 0xFF, 0]) = some 85 ∧
    size (.queryTile toAll [2, 0, 7, 47]) = some 85 ∧ size (.queryPhoto toAll [3, 0, 255, 0]) = some 17 ∧
    size (.queryStaging toAll [4, 0, 0, 0]) = some 18 ∧ size (.querySchedule toAll [5, 0, 0, 0]) = some 16 ∧
    size (.queryGlyph toAll [6, 0, 3, 0]) = some 37 := by decide +kernel

/-- Section 5.5, row 13: photo 20 is OPEN, 100 × 70, with 6132 blocks free. -/
theorem test_queryPhoto_data :
    answer (after (.queryPhoto toAll [3, 0, 20, 0]) (after (.photoOpen toAll photoOpen20) inFrame)) =
      some (0, [1, 0, 100, 0, 70, 0, 0, 0, 0, 0, 0, 0, 0, 0, 0, 0x17, 0xF4]) := by decide +kernel

theorem test_nodeResetTables :
    let t := after (.nodeResetTables toAll [0]) (after (.itemPut toAll simplePut) inFrame)
    t.tables.staged.items = [] ∧ t.tables.stagedState = .clean ∧ t.lane.queue.length = 1 := by decide +kernel

theorem test_nodeResetFull :
    let t := after (.nodeResetFull toAll [1] pins0) live
    t.frame = none ∧ t.timing.link = .search ∧ t.lane.address = 5 ∧ t.lane.queue = [] := by decide +kernel

theorem test_restrap :
    let t := after (.restrap toAll [] pins0) { inFrame with lane := { inFrame.lane with conflict := true } }
    t.lane.address = 5 ∧ t.lane.conflict = false ∧ (after (.restrap toAll [] pins0) inFrame).lane.address = 0 := by
  decide +kernel

theorem test_unknownCommand : answer (after (.unknownCommand toAll 0x43 [1, 2]) inFrame) = some (1, []) := by
  decide +kernel

/-! ### The input port and the timers (chapter 7) -/

/-- R143, R152: the first frame after a reset is a local frame numbered 0; its line 0 is composed at once (R144). -/
theorem test_first_local_frame :
    let t := after (.localFrameTimerExpires pins1) State.reset
    t.timing.number = 0 ∧ (t.frame.map Frame.kind) = some .localFrame ∧
    (t.out.composed.map fun l => (l.n, l.pixels.length)) = [(0, 1920)] ∧ t.output.debounce = 1 := by decide +kernel

/-- R148: the second good header in SEARCH enters LIVE with its own number. -/
theorem test_search_to_live :
    let t := after (.headerLineEnd (encodeHeader ⟨500, 12, 0, 0, 4, 2⟩) pins0) (counting .search 1)
    t.timing.link = .live ∧ t.timing.number = 500 ∧ t.lane.events.linkChanged = true ∧ t.timing.hour = 12 := by
  decide +kernel

/-- R106, R108, R115: the strip or the glyph load in flight at a stop is LOST, and line 0 is composed in the fill colour. -/
theorem test_stop_ends_request :
    let s : State :=
      { live with
        photos := { live.photos with directory := [(20, newPhoto 1 3 none [7])], free := [] }
        capture := ⟨[.strip 20 1 2 2 1], some ⟨.strip 20 1 0 0 2, 0⟩⟩ }
    let t := after (.frameStartMark none pins0) s
    let u := after (.lineGapTimeout none pins0)
      { live with
        glyphs := { live.glyphs with slots := live.glyphs.slots.set 47 (.loading []) }
        capture := ⟨[], some ⟨.glyph 3 11 0 0 64 96, 0⟩⟩ }
    ((tget t.photos.directory 20).map fun r => (r.last, r.skipped)) = some (.lost, 1) ∧ t.capture = ⟨[], none⟩ ∧
    (t.out.composed.map fun l => (l.n, l.pixels.length, l.pixels.take 1)) = [(0, 1920, [⟨0, 0, 0⟩])] ∧
    u.glyphs.slots[47]? = some .empty ∧ u.lane.events.captureFailed = true := by decide +kernel

/-- R145, R146: a mark after one of two lines stops the frame's input and counts a miss. -/
theorem test_mark_stops_input :
    let t := after (.frameStartMark none pins0) (after (.activeLine (0x01 :: List.replicate 12 9)) live)
    t.timing.link = .lossWait ∧ t.timing.miss = 1 ∧ t.receiver.position = .awaitHeader ∧
    (t.frame.map Frame.inputOpen) = some false := by decide +kernel

/-- R114: canvas columns 0 and 1 give their pixels, columns past the canvas the fill colour. -/
theorem test_activeLine_base :
    (after (.activeLine [0x01, 1, 2, 3, 4, 5, 6]) live).out.composed.map (fun l => (l.n, l.pixels.take 3)) =
      [(0, [⟨1, 2, 3⟩, ⟨4, 5, 6⟩, ⟨0, 0, 0⟩])] := by decide +kernel

/-- R169: a packet line is taken; one with a wrong CRC raises PACKET_CRC. -/
theorem test_packetLine :
    (after (.packetLine (0x02 :: (encodePacket ⟨toAll, 0x21, [0, 1, 2]⟩ ++ [0, 0])) pins0) live).context.override =
      some ⟨.untilRelease, 1, 2⟩ ∧
    (after (.packetLine [0x02, 0xF0, 1, 0x21, 0, 0, 0] pins0) live).lane.events.packetCrc = true := by decide +kernel

theorem test_inputSignalLoss :
    (after (.inputSignalLoss none pins0) live).timing.link = .lossWait ∧
    (after (.inputSignalLoss none pins0) inFrame).timing.link = .search := by decide +kernel

theorem test_lineGapTimeout : (after (.lineGapTimeout none pins0) live).timing.missed = true := by decide +kernel

/-- R149: the third miss enters STANDALONE and the frame takes the predicted number. -/
theorem test_headerTimer_third_miss :
    let t := after (.headerTimerExpires pins0) (lossWait 2)
    t.timing.link = .standalone ∧ t.timing.number = 101 ∧ t.timing.miss = 0 ∧ t.timing.localTimer = true := by
  decide +kernel

theorem test_gapTimer : (after .gapTimerExpires (counting .standalone 7)).timing.good = 0 := by decide +kernel

theorem test_localLine :
    ((after .localLineTimer inFrame).out.composed.map fun l => (l.n, l.pixels.length)) = [(0, 1920)] := by decide +kernel

/-- R154: 23:59:59 is followed by 00:00:00. -/
theorem test_clock_wraps :
    let t := after .clockSecondTick
      { State.reset with timing := { State.reset.timing with hour := 23, minute := 59, second := 59 } }
    (t.timing.hour, t.timing.minute, t.timing.second) = (0, 0, 0) := by decide +kernel

/-- R161, R165: the fourth present sample makes the panel PRESENT and takes the first fade step, from 0 to 4. -/
theorem test_panel_arrives :
    let t := after (.localFrameTimerExpires pins1) { inFrame with output := { inFrame.output with debounce := 3 } }
    t.output.panel = .present ∧ t.output.level = 4 ∧ t.lane.events.panelChanged = true ∧
    t.out.panel.head? = some .frameMark := by decide +kernel

/-- R103, R104: a strip of two rows is written line by line and completes the photo. -/
theorem test_strip_completes :
    let s : State :=
      { live with
        photos :=
          { live.photos with
            directory := [(20, newPhoto 1 2 none [7])], free := [] }
        capture := ⟨[], some ⟨.strip 20 1 0 0 2, 0⟩⟩ }
    let t := after (.activeLine (0x01 :: List.replicate 12 9)) (after (.activeLine [0x01, 1, 2, 3, 4, 5, 6]) s)
    ((tget t.photos.directory 20).map fun r => (r.state, r.rowsFilled, r.last)) = some (.ready, 2, .done) ∧
    photoPixel t.photos.memory (newPhoto 1 2 none [7]) 0 0 = ⟨4, 5, 6⟩ ∧
    photoPixel t.photos.memory (newPhoto 1 2 none [7]) 0 1 = ⟨9, 9, 9⟩ ∧ t.lane.events.captureDone = true := by
  decide +kernel

/-! ### The return lane and RESETn (chapters 9 and 10) -/

theorem test_transfer_starts_and_is_cut :
    (after (.upstreamTransferStart false) fullLane).lane.sending = true ∧
    (after (.upstreamTransferStart true) fullLane).lane.sending = false ∧
    (after (.upstreamTransferCut false) (after (.upstreamTransferStart false) fullLane)).lane.queue.length = 8 := by
  decide +kernel

/-- R180: a slot that frees goes to the waiting record, and its transfer ends. -/
theorem test_transfer_done_grants :
    let t := after (.upstreamTransferDone pins0)
      { fullLane with lane := { fullLane.lane with sending := true, buffer := some aRecord } }
    t.lane.queue.length = 8 ∧ t.lane.buffer = none ∧ t.out.laneDown = true ∧ t.out.laneUp = some aRecord := by
  decide +kernel

/-- R182: a record from the node's own address sets CONFLICT. -/
theorem test_conflict :
    (after (.downstreamRecordReceived (encodeRecord ⟨0, 1, 0x40, 0, 0, [], crc16 [0, 1, 0x40, 0, 0, 0, 0, 0]⟩))
      inFrame).lane.conflict = true := by decide +kernel

theorem test_record_cut_short : (after .downstreamRecordCutShort inFrame).lane.events.returnCrc = true := by decide +kernel

theorem test_resetn :
    let t := after .resetnAssert live
    t.frame = none ∧ t.resetn = true ∧ t.timing.localTimer = false ∧ (after (.resetnRelease pins0) t).lane.address = 5 ∧
    (after (.resetnRelease pins0) t).timing.localTimer = true := by decide +kernel

/-! ### Witnesses: the machine -/

/-- A node whose queues are full. -/
def brimful : State :=
  { fullLane with
    pending := [.localLineTimer]
    intake := List.replicate 16 ⟨toAll, 0x1A, []⟩
    capture := ⟨List.replicate 4 (.strip 20 0 0 0 1), some ⟨.strip 20 0 0 0 1, 0⟩⟩ }

/-- The node in LIVE with a take pending for a frame. -/
def taking (target : FrameNo) : State := { live with tables := { live.tables with pendingTake := some target } }

/-- A node whose photo 20 of 1 × 2 holds block 0, with a strip of it in flight. -/
def filling : State :=
  { live with
    photos :=
      { live.photos with
        directory := [(20, newPhoto 1 2 none [0])], free := (List.range' 1 6143), memory := [(5, 1)] }
    capture := ⟨[], some ⟨.strip 20 1 0 0 2, 0⟩⟩
    pending := [.activeLine [0x01, 1, 2, 3, 4, 5, 6]] }

/-- The node with the bank of section 4.5 staged, and an audit at a check. -/
def auditing (next : Option Nat) (running : Bool) (mask : AuditMask) : State :=
  { inFrame with
    tables := { inFrame.tables with staged := mealBank, stagedState := .auditing }
    audit := ⟨some ⟨mask, next, running⟩, .none⟩ }

/-- A full reply queue in transfer, with a record waiting or none, packets waiting or none, and a grant memory. -/
def waiting (buffer : Option ReplyRecord) (intake : List Packet) (grant : GrantMemory) : State :=
  { fullLane with
    intake := intake, lane := { fullLane.lane with sending := true, buffer := buffer, grant := grant } }

def queryPacket : Packet := ⟨toAll, 0x40, [0, 0, 0, 0]⟩

theorem witness_StepRunsFrontCommand :
    (ready .localLineTimer).pending = .localLineTimer :: [] ∧ State.reset.pending = [] ∧
    ∃ t, exec .localLineTimer brimful = .next t := ⟨rfl, rfl, _, rfl⟩

theorem witness_StepKeepsQueueBounds :
    QueuesBounded brimful ∧ brimful.intake.length = 16 ∧ brimful.lane.queue.length = 8 ∧
    brimful.capture.queue.length = 4 ∧ ∃ t, step brimful = .next t :=
  ⟨by unfold QueuesBounded; decide +kernel, rfl, rfl, rfl, _, rfl⟩

/-- A packet that waits for the first frame, two behind a full reply queue whose slot frees, and a node that RESETn holds. -/
theorem witness_StepKeepsIntakeAtRest :
    let first : State := { State.reset with intake := [queryPacket], pending := [.localFrameTimerExpires pins0] }
    let stalled : State :=
      { waiting none [queryPacket, queryPacket] .own with pending := [.upstreamTransferDone pins0] }
    let held : State := { after .resetnAssert live with pending := [.resetnRelease pins0] }
    (first.resetn = false ∧ IntakeAtRest first ∧ ∃ t, step first = .next t) ∧
    (stalled.resetn = false ∧ IntakeAtRest stalled ∧ ∃ t, step stalled = .next t) ∧
    (HeldInReset held ∧ IntakeAtRest held ∧ ∃ t, step held = .next t) :=
  ⟨⟨rfl, .inr (.inl rfl), _, rfl⟩, ⟨rfl, .inr (.inr ⟨_, _, rfl, rfl, by decide⟩), _, rfl⟩,
    ⟨rfl, rfl, rfl, rfl, rfl, rfl⟩, .inl rfl, _, rfl⟩

theorem witness_StepKeepsTimingAndPanelSafe :
    let rising : State :=
      { inFrame with
        pending := [.localFrameTimerExpires pins1], output := { inFrame.output with debounce := 3 } }
    (TimingInRange (lossWait 2).timing ∧
      ∃ t, step { lossWait 2 with pending := [.headerTimerExpires pins0] } = .next t) ∧
    (TimingInRange (counting .standalone 7).timing ∧
      ∃ t, step { counting .standalone 7 with pending := [.clockSecondTick] } = .next t) ∧
    (PanelSafe rising.output ∧ ∃ t, step rising = .next t) :=
  ⟨⟨by unfold TimingInRange; decide +kernel, _, rfl⟩, ⟨by unfold TimingInRange; decide +kernel, _, rfl⟩,
    by unfold PanelSafe; decide +kernel, _, rfl⟩

theorem witness_StepKeepsTakeSafe :
    (TakeSafe (taking 101) ∧ ∃ t, step { taking 101 with pending := [.takeCancel toAll []] } = .next t) ∧
    (TakeSafe (auditing (some 1) true ⟨true, true, true, true, true⟩) ∧
      ∃ t, step { auditing (some 1) true ⟨true, true, true, true, true⟩ with
        pending := [.localFrameTimerExpires pins0] } = .next t) :=
  ⟨⟨by unfold TakeSafe; decide +kernel, _, rfl⟩, by unfold TakeSafe; decide +kernel, _, rfl⟩

theorem filling_partitioned : BlocksPartitioned filling.photos := by
  refine ⟨rfl, ?_⟩
  have blocks : List.range Config.blockCount = [0] ++ List.range' 1 6143 := by
    rw [List.range_eq_range']; rfl
  rw [blocks]
  exact List.perm_append_comm

theorem filling_sized : PhotosSized filling.photos := by
  intro e he
  obtain rfl : e = (20, newPhoto 1 2 none [0]) := by simpa [filling] using he
  unfold PhotoSized
  decide

theorem filling_strips : StripsInPhotos filling := by
  intro q hq id x y row rows h
  obtain rfl : q = .strip 20 1 0 0 2 := by simpa [filling, allRequests] using hq
  cases h
  exact ⟨by decide, newPhoto 1 2 none [0], rfl, by decide⟩

theorem witness_StepKeepsBlockPartition :
    BlocksPartitioned filling.photos ∧ PhotosSized filling.photos ∧ StripsInPhotos filling ∧ filling.photos.directory ≠ [] ∧
    allRequests filling.capture ≠ [] ∧ ∃ t, step filling = .next t :=
  ⟨filling_partitioned, filling_sized, filling_strips, by decide, by decide, _, rfl⟩

theorem sized_inFrame : StoresSized inFrame := by unfold StoresSized; decide +kernel

/-- The node with the bank of section 4.5 staged. -/
def stocked : State := { inFrame with tables := { inFrame.tables with staged := mealBank } }

theorem meal_items : ∀ e ∈ mealBank.items, ItemInRange e.1 e.2 := by
  have simple (id v : Nat) (h : id < 512) (hv : v ≤ 999999) :
      ItemInRange id ⟨.simple ⟨none, some v, none, none⟩, none⟩ := by
    refine ⟨h, by simp, ?_⟩
    intro c hc w hw
    have : c = 0 ∨ c = 1 ∨ c = 2 ∨ c = 3 := by omega
    rcases this with rfl | rfl | rfl | rfl <;> simp [columnGet] at hw
    omega
  simp only [mealBank, List.forall_mem_cons]
  exact ⟨simple _ _ (by decide) (by decide), simple _ _ (by decide) (by decide), simple _ _ (by decide) (by decide),
    ⟨by decide, by simp, by decide, by decide, by decide, by simp⟩, by simp⟩

/-- The ids, the tile, the schedule, the settings, a highlight and an override at the ends of their ranges. -/
def ranged : State :=
  { stocked with
    tables :=
      { stocked.tables with
        live :=
          { mealBank with
            tiles :=
              [(383, ⟨.photo (some 255) (-512) 2047, -2048, 4095, 2048, 1, 200, some 511, none, 192, .always, .keep, 0⟩)]
            factors := ⟨500, 2000, 1000, 1000⟩, schedule := [⟨0, 0, 0, 0⟩, ⟨1439, 7, 3, 255⟩] } }
    context :=
      { stocked.context with
        high0 := some ⟨47, 31, 16, ⟨0, 0, 0⟩, 0⟩, override := some ⟨.untilBoundary, 7, 3⟩ }
    pending := [.stageCopy toAll []] }

theorem ranged_inRange : RecordsInRange ranged := by
  have factors : ∀ f : PerColumn Nat, f = ⟨500, 2000, 1000, 1000⟩ ∨ f = ⟨1000, 1080, 1000, 1000⟩ →
      ∀ c, c < 4 → 500 ≤ columnGet f c ∧ columnGet f c ≤ 2000 := by
    rintro f (rfl | rfl) <;> decide
  refine ⟨⟨meal_items, ?_, factors _ (.inl rfl), by unfold FormatInRange; decide +kernel,
    by unfold ScheduleInRange; decide +kernel⟩, ⟨meal_items, by simp [ranged, stocked, mealBank, emptyBank],
    factors _ (.inr rfl), by unfold FormatInRange; decide +kernel, by unfold ScheduleInRange; decide +kernel⟩,
    ⟨by unfold SettingsInRange; decide +kernel, ?_, ?_⟩⟩
  · simp [ranged, TileInRange]
  · rintro h (e | e)
    · cases e; unfold HighlightInRange; decide
    · cases e
  · intro o e
    cases e
    decide

theorem witness_StepKeepsStoresInForm :
    (Memory.wf filling.photos.memory = true ∧ filling.photos.memory ≠ [] ∧ StoresSized filling ∧
      ∃ t, step filling = .next t) ∧
    (BanksSorted ranged ∧ ranged.tables.live.items.length = 4 ∧ ranged.tables.live.tiles ≠ [] ∧
      ∃ t, step ranged = .next t) :=
  ⟨⟨by decide +kernel, by decide, by unfold StoresSized; decide +kernel, _, rfl⟩,
    by unfold BanksSorted BankSorted; decide +kernel, rfl, by decide, _, rfl⟩

theorem witness_StepKeepsRecordsInRange : RecordsInRange ranged ∧ ∃ t, step ranged = .next t := ⟨ranged_inRange, _, rfl⟩

theorem witness_PacketsLeaveFrameInProgress :
    packetOf (.itemPut toAll simplePut) = some ⟨toAll, 0x10, simplePut⟩ ∧
    (∃ t, exec (.itemPut toAll simplePut) filling = .next t) ∧
    packetOf (.nodeResetFull toAll [1] pins0) = some ⟨toAll, 0x41, [1]⟩ ∧
    ∃ t, exec (.nodeResetFull toAll [1] pins0) filling = .next t := ⟨rfl, ⟨_, rfl⟩, rfl, _, rfl⟩

/-! ### Witnesses: encodings -/

theorem witness_PacketHeaderAndRecordReadBackAsSent_packet :
    (⟨toAll, 0x16, []⟩ : Packet).payload.length ≤ 240 ∧
    (⟨toAll, 0x25, List.replicate 240 0⟩ : Packet).payload.length ≤ 240 := by decide +kernel

theorem witness_PacketHeaderAndRecordReadBackAsSent_header :
    let low : Header := ⟨0, 0, 0, 0, 1, 1⟩
    let high : Header := ⟨65535, 255, 255, 255, 8192, 4096⟩
    (low.hour < 256 ∧ low.minute < 256 ∧ low.second < 256 ∧ 1 ≤ low.width ∧ low.width ≤ 8192 ∧ 1 ≤ low.height ∧
      low.height ≤ 4096) ∧
    (high.hour < 256 ∧ high.minute < 256 ∧ high.second < 256 ∧ 1 ≤ high.width ∧ high.width ≤ 8192 ∧ 1 ≤ high.height ∧
      high.height ≤ 4096) := by decide +kernel

/-- A record with the CRC of its other bytes. -/
def checked (r : ReplyRecord) : ReplyRecord := { r with crc := crc16 (recordBody r) }

theorem checked_crc (r : ReplyRecord) : (checked r).crc = crc16 (recordBody (checked r)) := by
  simp only [checked, recordBody]

theorem witness_PacketHeaderAndRecordReadBackAsSent_record :
    ∃ r : ReplyRecord, r.data.length = 240 ∧ r.data.length ≤ 240 ∧ r.crc = crc16 (recordBody r) :=
  ⟨checked ⟨3, 1, 0x40, 0, 0, List.replicate 240 1, 0⟩, List.length_replicate, List.length_replicate.le, checked_crc _⟩

theorem witness_ItemAndTileRecordsReadBack_item :
    ItemInRange 511 ⟨.simple ⟨none, some 999999, some 0, some 549⟩, some 255⟩ ∧
    ItemInRange 0 ⟨.combo [⟨511, 9⟩, ⟨1, 1⟩, ⟨1, 1⟩, ⟨2, 1⟩] 999999, none⟩ := by
  refine ⟨⟨by decide, by simp, ?_⟩, ⟨by decide, by simp, by decide, by decide, by decide, by simp⟩⟩
  intro c hc v hv
  have : c = 0 ∨ c = 1 ∨ c = 2 ∨ c = 3 := by omega
  rcases this with rfl | rfl | rfl | rfl <;> simp [columnGet] at hv <;> omega

theorem witness_ItemAndTileRecordsReadBack_tile :
    TileInRange 7 47 ⟨.photo (some 255) (-512) 2047, -2048, 4095, 2048, 1, 200, some 511, none, 192, .always, .keep, 0⟩ ∧
    TileInRange 0 0 ⟨.price ⟨3, ⟨0, 0, 0⟩, .center, 3, 2047, 15⟩, 0, 0, 160, 40, 0, some 40, none, 255, .always, .keep, 0⟩ ∧
    TileInRange 0 0 ⟨.panel, 4095, -2048, 1, 2048, 0, none, some ⟨⟨0, 0, 0⟩, 0⟩, 255, .always, .keep, 0⟩ := by
  simp [TileInRange]

/-! ### Witnesses: intake, answers and replies -/

theorem taken_inFrame (code : Byte) : TakenAtOnce inFrame toAll code := ⟨rfl, rfl, rfl, rfl, fun _ => by decide⟩

theorem taken_live (code : Byte) : TakenAtOnce live toAll code := ⟨rfl, rfl, rfl, rfl, fun _ => by decide⟩

theorem taken_taking (code : Byte) : TakenAtOnce (taking 101) toAll code := ⟨rfl, rfl, rfl, rfl, fun _ => by decide⟩

/-- Another node's packet, the own address in conflict; before the first frame; behind a stalled head, with room and without. -/
theorem witness_PacketsFollowTheirAddressing :
    let one : PacketHead := ⟨3, 3, 7⟩
    let own : PacketHead := ⟨0, 0, 7⟩
    let stalled (n : Nat) : State := { fullLane with intake := List.replicate n ⟨toAll, 0x1A, []⟩ }
    targeted inFrame one = false ∧
    targeted { inFrame with lane := { inFrame.lane with conflict := true } } own = false ∧
    (targeted State.reset own = true ∧ State.reset.frame = none) ∧
    ∀ n, n = 15 ∨ n = 16 →
      targeted (stalled n) toAll = true ∧ (stalled n).resetn = false ∧
      ∃ head rest, (stalled n).intake = head :: rest ∧ answered (stalled n) head = true ∧
        8 ≤ (stalled n).lane.queue.length := by
  refine ⟨rfl, rfl, ⟨rfl, rfl⟩, ?_⟩
  rintro n (rfl | rfl)
  · exact ⟨rfl, rfl, ⟨toAll, 0x1A, []⟩, List.replicate 14 ⟨toAll, 0x1A, []⟩, rfl, rfl, by decide⟩
  · exact ⟨rfl, rfl, ⟨toAll, 0x1A, []⟩, List.replicate 15 ⟨toAll, 0x1A, []⟩, rfl, rfl, by decide⟩

theorem witness_RepliesCarryEventsAndLevels :
    answered inFrame ⟨toAll, 0x40, [0, 0, 0, 0]⟩ = true ∧
    (⟨.ok, List.replicate 240 1, inFrame⟩ : Taken).data.length ≤ 240 := by decide +kernel

/-! ### Witnesses: staged edits -/

theorem witness_StagedEditsRefuseLengthThenPendingTake :
    packetOf (.itemPut toAll []) = some ⟨toAll, 0x10, []⟩ ∧ (0x10 : Byte) ∈ stagedEditCodes ∧
    TakenAtOnce (taking 101) toAll 0x10 ∧ editLengthOk 0x10 [] = false ∧ editLengthOk 0x10 simplePut = true ∧
    (taking 101).tables.pendingTake.isSome = true :=
  ⟨rfl, by decide, taken_taking _, rfl, by decide, rfl⟩

/-- Each refusal at its boundary, and the two kinds of record that are placed. -/
theorem witness_ItemPutPlacesOrRefusesTheRecord :
    TakenAtOnce inFrame toAll 0x10 ∧ inFrame.tables.pendingTake = none ∧
    simplePut.length = 37 ∧ ¬ ItemRefused simplePut ∧ u8 simplePut 2 = 0 ∧
    comboPut.length = 37 ∧ ¬ ItemRefused comboPut ∧ u8 comboPut 2 = 1 ∧
    (simplePut.set 0 2).length = 37 ∧ ItemRefused (simplePut.set 0 2) ∧
    (comboPut.set 21 40).length = 37 ∧ ItemRefused (comboPut.set 21 40) :=
  ⟨taken_inFrame _, rfl, by decide, by unfold ItemRefused; decide +kernel, by decide, by decide,
    by unfold ItemRefused; decide +kernel, by decide, by decide, by unfold ItemRefused; decide +kernel, by decide,
    by unfold ItemRefused; decide +kernel⟩

theorem witness_TilePutPlacesOrRefusesTheRecord :
    TakenAtOnce inFrame toAll 0x14 ∧ inFrame.tables.pendingTake = none ∧
    (photoTilePut.length = 39 ∧ ¬ TileRefused photoTilePut ∧ u8 photoTilePut 2 = 0) ∧
    (priceTilePut.length = 39 ∧ ¬ TileRefused priceTilePut ∧ u8 priceTilePut 2 = 1) ∧
    (panelTilePut.length = 39 ∧ ¬ TileRefused panelTilePut ∧ u8 panelTilePut 2 = 2) ∧
    ((priceTilePut.set 12 0).length = 39 ∧ TileRefused (priceTilePut.set 12 0)) ∧
    ((photoTilePut.set 3 0xF7).length = 39 ∧ TileRefused (photoTilePut.set 3 0xF7)) :=
  ⟨taken_inFrame _, rfl, ⟨by decide, by unfold TileRefused; decide +kernel, by decide⟩,
    ⟨by decide, by unfold TileRefused; decide +kernel, by decide⟩,
    ⟨by decide, by unfold TileRefused; decide +kernel, by decide⟩, ⟨by decide, by unfold TileRefused; decide +kernel⟩,
    ⟨by decide, by unfold TileRefused; decide +kernel⟩⟩

theorem witness_DropsAndWipesRemoveExactlyWhatTheyName :
    inFrame.tables.pendingTake = none ∧ (TakenAtOnce inFrame toAll 0x11 ∧ [(1 : Byte), 0xFF].length = 2) ∧
    (TakenAtOnce inFrame toAll 0x15 ∧ [(7 : Byte), 47].length = 2) ∧
    (TakenAtOnce inFrame toAll 0x16 ∧ [(7 : Byte)].length = 1 ∧ (47 : Nat) < 48) :=
  ⟨rfl, ⟨taken_inFrame _, rfl⟩, ⟨taken_inFrame _, rfl⟩, taken_inFrame _, rfl, by decide⟩

/-- Two entries in order, and two at one start minute. -/
theorem witness_ColumnFormatAndScheduleEditsReplaceOnePart :
    let good : List Byte := [2, 0, 0, 0, 0, 0, 0x05, 0x9F, 7, 3, 255]
    let bad : List Byte := [2, 0, 9, 0, 0, 0, 0, 9, 1, 0, 0]
    inFrame.tables.pendingTake = none ∧ (TakenAtOnce inFrame toAll 0x12 ∧ [(3 : Byte), 0x07, 0xD0].length = 3) ∧
    (TakenAtOnce inFrame toAll 0x13 ∧ mealFormatPut.length = 9 ∧ ¬ FormatRefused mealFormatPut ∧
      (mealFormatPut.set 5 10).length = 9 ∧ FormatRefused (mealFormatPut.set 5 10)) ∧
    (TakenAtOnce inFrame toAll 0x17 ∧ 0 < good.length ∧ good.length = 1 + 5 * u8 good 0 ∧ ¬ ScheduleRefused good ∧
      0 < bad.length ∧ bad.length = 1 + 5 * u8 bad 0 ∧ ScheduleRefused bad) := by
  refine ⟨rfl, ⟨taken_inFrame _, rfl⟩, ⟨taken_inFrame _, by decide, by unfold FormatRefused; decide +kernel, by decide,
    by unfold FormatRefused; decide +kernel⟩, taken_inFrame _, by decide, by decide, ?_, by decide, by decide,
    .inr (.inr ⟨0, 1, by decide, by decide, by decide⟩)⟩
  rintro (h | h | ⟨n, m, hn, hm, h⟩)
  · exact absurd h (by decide)
  · exact absurd h (by decide)
  · have hm2 : m < 2 := hm
    have h01 : n = 0 ∧ m = 1 := by omega
    obtain ⟨rfl, rfl⟩ := h01
    exact absurd h (by decide)

/-! ### Witnesses: STAGE_COPY, AUDIT, TAKE and TAKE_CANCEL -/

theorem witness_StageCopyAndAuditSetTheStagedState :
    inFrame.frame = some frame0 ∧ TakenAtOnce inFrame toAll 0x18 ∧ TakenAtOnce inFrame toAll 0x19 :=
  ⟨rfl, taken_inFrame _, taken_inFrame _⟩

theorem witness_TakeAndTakeCancelSetAndClearThePendingTake :
    (TakenAtOnce live toAll 0x1A ∧ live.frame.isSome = true) ∧ TakenAtOnce (taking 101) toAll 0x1B ∧
    TakenAtOnce live toAll 0x1B := ⟨⟨taken_live _, rfl⟩, taken_taking _, taken_live _⟩

/-! ### Witnesses: the immediate class -/

/-- Two pairs of item 5, and none of item 6. -/
theorem witness_StockAppliesItsPairsInOrder :
    let p : List Byte := [2, 0, 5, 1, 0, 5, 0]
    TakenAtOnce inFrame toAll 0x20 ∧ inFrame.tables.stock.length = 512 ∧
    (1 < u8 p 0 ∧ u16 p (1 + 3 * 1) = 5 ∧ (∀ m, 1 < m → m < u8 p 0 → u16 p (1 + 3 * m) ≠ 5) ∧ u8 p (3 + 3 * 1) ≤ 1) ∧
    ∀ n, n < u8 p 0 → u16 p (1 + 3 * n) ≠ 6 := by
  refine ⟨taken_inFrame _, by decide +kernel, ⟨by decide, by decide, ?_, by decide⟩, by decide⟩
  intro m h1 h2
  have h3 : m < 2 := h2
  omega

theorem witness_OverrideCommandsHoldOrRelease :
    inFrame.frame = some frame0 ∧ TakenAtOnce inFrame toAll 0x21 ∧ TakenAtOnce inFrame toAll 0x22 ∧
    TakenAtOnce inFrame toAll 0x23 := ⟨rfl, taken_inFrame _, taken_inFrame _, taken_inFrame _⟩

/-- The last entry of a table in range, and a write that passes it. -/
theorem witness_ConfigAndGammaWriteWholeOrNothing :
    let last : List Byte := [2, 0, 255, 1, 0x03, 0xFF]
    let past : List Byte := [2, 0, 255, 2, 0, 0, 0, 0]
    TakenAtOnce inFrame toAll 0x24 ∧ (([] : List Byte).length ≠ 22) ∧
    (settingsPut.length = 22 ∧ ¬ SettingsRefused settingsPut) ∧
    ((settingsPut.set 20 0).length = 22 ∧ SettingsRefused (settingsPut.set 20 0)) ∧
    TakenAtOnce inFrame toAll 0x25 ∧ StoresSized inFrame ∧ ([(0 : Byte), 0, 0].length < 4) ∧
    (4 ≤ last.length ∧ last.length = 4 + 2 * u8 last 3 ∧ ¬ GammaRefused last) ∧
    (4 ≤ past.length ∧ past.length = 4 + 2 * u8 past 3 ∧ GammaRefused past) :=
  ⟨taken_inFrame _, by decide, ⟨by decide, by unfold SettingsRefused; decide +kernel⟩,
    ⟨by decide, by unfold SettingsRefused; decide +kernel⟩, taken_inFrame _, sized_inFrame, by decide,
    ⟨by decide, by decide, by unfold GammaRefused; decide +kernel⟩,
    ⟨by decide, by decide, by unfold GammaRefused; decide +kernel⟩⟩

/-! ### Witnesses: the memory class -/

theorem taken_filling (code : Byte) : TakenAtOnce filling toAll code := ⟨rfl, rfl, rfl, rfl, fun _ => by decide⟩

/-- A photo to open; and one without a record, one in no use, and one that is referenced, to drop. -/
theorem witness_PhotoOpenAndDropMoveBlocks :
    let used : State := { filling with photos := { filling.photos with refCounts := List.replicate 256 1 } }
    TakenAtOnce filling toAll 0x30 ∧ TakenAtOnce filling toAll 0x31 ∧ tget filling.photos.directory (u8 [21] 0) = none ∧
    tget filling.photos.directory (u8 [20] 0) = some (newPhoto 1 2 none [0]) ∧
    filling.photos.refCounts.getD (u8 [20] 0) 0 = 0 ∧ TakenAtOnce used toAll 0x31 ∧
    tget used.photos.directory (u8 [20] 0) = some (newPhoto 1 2 none [0]) ∧
    0 < used.photos.refCounts.getD (u8 [20] 0) 0 :=
  ⟨taken_filling _, taken_filling _, rfl, rfl, rfl, ⟨rfl, rfl, rfl, rfl, fun _ => by decide⟩, rfl, by decide⟩

theorem witness_CaptureCommandsQueueOrEndRequests :
    TakenAtOnce filling toAll 0x32 ∧ capture20.length = 9 ∧
    tget filling.photos.directory (u8 capture20 0) = some (newPhoto 1 2 none [0]) ∧
    tget inFrame.photos.directory (u8 capture20 0) = none ∧ TakenAtOnce inFrame toAll 0x32 ∧
    TakenAtOnce filling toAll 0x33 ∧
    (TakenAtOnce filling toAll 0x34 ∧ StoresSized filling ∧ [(0 : Byte)] ≠ [] ∧ (47 : Nat) < 48) :=
  ⟨taken_filling _, rfl, rfl, rfl, taken_inFrame _, taken_filling _, taken_filling _,
    by unfold StoresSized; decide +kernel, by decide, by decide⟩

/-! ### Witnesses: the node class -/

/-- A payload of each kind at the end of its range, one past it, and one too short. -/
theorem witness_QueriesAnswerAndChangeNothing :
    TakenAtOnce stocked toAll 0x40 ∧
    (∀ e ∈ stocked.tables.live.items ++ stocked.tables.staged.items, ItemInRange e.1 e.2) ∧
    (u8 [0, 9, 9, 9] 0 = 0 ∧ u8 [4, 9, 9, 9] 0 = 4 ∧ u8 [5, 9, 9, 9] 0 = 5 ∧ u8 [0] 0 = 0 ∧ [(0 : Byte)].length ≠ 4) ∧
    (u8 [1, 1, 255, 9] 0 = 1 ∧ ¬ 511 < u16 [1, 1, 255, 9] 1 ∧ 511 < u16 [1, 2, 0, 9] 1) ∧
    (u8 [2, 0, 7, 47] 0 = 2 ∧ ¬ (7 < u16 [2, 0, 7, 47] 1 ∨ 47 < u8 [2, 0, 7, 47] 3) ∧ 47 < u8 [2, 0, 7, 48] 3) ∧
    (u8 [3, 0, 255, 9] 0 = 3 ∧ ¬ 255 < u16 [3, 0, 255, 9] 1 ∧ 255 < u16 [3, 1, 0, 9] 1) ∧
    (u8 [6, 0, 3, 9] 0 = 6 ∧ ¬ 3 < u16 [6, 0, 3, 9] 1 ∧ 3 < u16 [6, 0, 4, 9] 1) := by
  refine ⟨⟨rfl, rfl, rfl, rfl, fun _ => by decide⟩, ?_, by decide⟩
  have items : stocked.tables.live.items ++ stocked.tables.staged.items = mealBank.items := rfl
  rw [items]
  exact meal_items

/-- Every outcome and object kind, with no audit, one that does not run yet, one that runs and one past its last check; the
objects at the ends of their ranges; a take pending for frame 101 and none. -/
theorem witness_QueryNodeAndStagingReportTheState :
    (∀ result progress target,
      let s : State :=
        { live with tables := { live.tables with pendingTake := target }, audit := ⟨progress, result⟩ }
      TakenAtOnce s toAll 0x40 ∧ s.frame.isSome = true ∧ TimingInRange s.timing ∧ QueuesBounded s ∧
      s.audit.result = result ∧ s.audit.progress = progress ∧ s.tables.pendingTake = target) ∧
    ((some 5 : Option Nat).getD 0 < 256 ∧ (none : Option Nat).getD 0 < 256) ∧
    (5 < 256 ∧ 7 < 8 ∧ 47 < 48 ∧ 2047 < 2048 ∧ 511 < 512 ∧ 255 < 256) := by
  refine ⟨fun _ _ _ => ⟨⟨rfl, rfl, rfl, rfl, fun _ => (by decide : (0 : Nat) < 8)⟩, rfl, ?_, ?_, rfl, rfl, rfl⟩,
    by decide, by decide⟩
  · change TimingInRange live.timing
    unfold TimingInRange; decide +kernel
  · change QueuesBounded live
    unfold QueuesBounded; decide +kernel

/-- Item 40 in both banks, priced, in overflow, not offered and not in the cache; item 5 in none; tile (7, 47) in the live
bank alone, completed with its flags; tile (7, 46), which was not on that page; no completed frame. -/
theorem witness_QueryItemAndTileReportTheirRecords :
    let flags : TileFlags := ⟨true, false, true, false, true⟩
    let viewed (status : Option ItemStatus) (entry : Option PriceEntry) (kept : Option KeptFlags) : State :=
      { ranged with
        frame :=
          some
            { frame0 with
              snap :=
                { frame0.snap with
                  status := (status.map fun x => (40, x)).toList
                  cache := (entry.map fun x => (40, x)).toList } }
        kept := kept }
    (∀ status entry kept,
      TakenAtOnce (viewed status entry kept) toAll 0x40 ∧ RecordsInRange (viewed status entry kept)) ∧
    ([(1 : Byte), 0, 40, 9].length = 4 ∧ u8 [1, 0, 40, 9] 0 = 1 ∧ u16 [1, 0, 40, 9] 1 = 40 ∧ u16 [1, 1, 255, 9] 1 = 511) ∧
    ((tget ranged.tables.live.items 40).isSome = true ∧ (tget ranged.tables.staged.items 40).isSome = true ∧
      tget ranged.tables.live.items 5 = none ∧ tget ranged.tables.staged.items 5 = none ∧
      ranged.tables.stock[511]? = some .available) ∧
    (∀ status entry, tget ((some status).map fun x => (40, x)).toList 40 = some (status : ItemStatus) ∧
      tget ((some entry).map fun x => (40, x)).toList 40 = some (entry : PriceEntry)) ∧
    (4294967295 < 4294967296) ∧
    ([(2 : Byte), 0, 7, 47].length = 4 ∧ u8 [2, 0, 7, 47] 0 = 2 ∧ u16 [2, 0, 7, 47] 1 = 7 ∧ u8 [2, 0, 7, 47] 3 = 47) ∧
    ((tget ranged.tables.live.tiles (7 * 48 + 47)).isSome = true ∧ tget ranged.tables.staged.tiles (7 * 48 + 47) = none) ∧
    (let kept : KeptFlags := ⟨100, 7, [(47, flags)]⟩
     (viewed none none (some kept)).kept = some kept ∧ kept.page = 7 ∧ tget kept.flags 47 = some flags ∧
      tget kept.flags 46 = none ∧ (viewed none none none).kept = none) :=
  ⟨fun _ _ _ => ⟨⟨rfl, rfl, rfl, rfl, fun _ => (by decide : (0 : Nat) < 8)⟩, ranged_inRange⟩, by decide,
    ⟨rfl, rfl, rfl, rfl, by decide +kernel⟩, fun _ _ => ⟨rfl, rfl⟩, by decide, by decide, ⟨rfl, rfl⟩,
    rfl, rfl, rfl, rfl, rfl⟩

/-- A photo without a record, one without a key colour and one with it and with each last result; no active entry and the last
one; an override of either mode and none; a slot of each state at the ends of a font. -/
theorem witness_QueryPhotoScheduleAndGlyphReportTheState :
    (∀ photo active override slots,
      let s : State :=
        { live with
          photos := { live.photos with directory := [(255, photo)] }
          glyphs := { live.glyphs with slots := slots }
          context := { live.context with override := override }
          frame := some { frame0 with snap := { frame0.snap with active := active } } }
      TakenAtOnce s toAll 0x40 ∧ tget s.photos.directory 255 = some photo ∧ tget s.photos.directory 0 = none ∧
      s.frame.map (fun f => f.snap.active) = some active ∧ s.context.override = override ∧ s.glyphs.slots = slots) ∧
    ([(3 : Byte), 0, 255, 9].length = 4 ∧ u16 [3, 0, 255, 9] 1 = 255) ∧ (512 ≤ 512 ∧ 4 ≤ 4) ∧
    live.photos.refCounts.getD 255 0 < 65536 ∧ live.photos.free.length ≤ 6144 ∧
    (frame0.snap.minute ≤ 1439 ∧ frame0.snap.page ≤ 7 ∧ frame0.snap.column ≤ 3) ∧
    (let e : SchedEntry := ⟨1439, 7, 3, 255⟩
     15 ≤ 15 ∧ e.start ≤ 1439 ∧ e.page ≤ 7 ∧ e.column ≤ 3) ∧
    (u16 [6, 0, 3, 9] 1 = 3 ∧ columnGet live.glyphs.useCounts 3 ≤ 255) ∧
    (let slots : List GlyphSlot := List.replicate 36 .empty ++ .loading [] :: List.replicate 10 .empty ++ [.loaded 64 96 []]
     slots[3 * 12 + 0]? = some (.loading []) ∧ slots[3 * 12 + 1]? = some .empty ∧
      slots[3 * 12 + 11]? = some (.loaded 64 96 [])) := by
  refine ⟨fun _ _ _ _ => ⟨⟨rfl, rfl, rfl, rfl, fun _ => (by decide : (0 : Nat) < 8)⟩, rfl, rfl, rfl, rfl, rfl⟩,
    by decide, by decide,
    by decide +kernel, by decide +kernel, by decide +kernel, by decide, by decide +kernel, by decide +kernel⟩

theorem witness_NodeResetsRestrapAndUnknownCommands :
    TakenAtOnce (taking 101) toAll 0x41 ∧ ([] : List Byte).length ≠ 1 ∧ 1 < u8 [2] 0 ∧
    TakenAtOnce { live with lane := { live.lane with conflict := true } } toAll 0x42 ∧
    (TakenAtOnce live toAll 0x43 ∧ (0x43 : Byte) ∉ assignedCodes ∧ (0x1C : Byte) ∉ assignedCodes) :=
  ⟨taken_taking _, by decide, by decide, ⟨rfl, rfl, rfl, rfl, fun _ => by decide⟩, taken_live _, by decide, by decide⟩

/-! ### Witnesses: the return lane and RESETn -/

/-- A record waits or none; no packet waits, one, or one with others behind it; and packets that wait before the first frame. -/
theorem witness_TransfersBeginEndAndFreeTheirSlot :
    (∀ buffer intake grant,
      (waiting buffer intake grant).lane.sending = true ∧
      (waiting buffer intake grant).lane.queue = aRecord :: List.replicate 7 aRecord ∧
      (List.replicate 7 aRecord).length < 8 ∧ (waiting buffer intake grant).frame.isSome = true ∧
      (waiting buffer intake grant).intake = intake ∧ (waiting buffer intake grant).lane.buffer = buffer ∧
      (waiting buffer intake grant).lane.grant = grant ∧ answered (waiting buffer intake grant) queryPacket = true) ∧
    ([queryPacket] = queryPacket :: [] ∧ [queryPacket, queryPacket] = queryPacket :: [queryPacket]) ∧
    { waiting none [queryPacket] .own with frame := none }.frame = none :=
  ⟨fun _ _ _ => ⟨rfl, rfl, by decide, rfl, rfl, rfl, rfl, rfl⟩, ⟨rfl, rfl⟩, rfl⟩

theorem witness_ForwardedRecordsAreAcceptedHeldOrDiscarded :
    (waiting (some aRecord) [] .own).lane.buffer.isSome = true ∧ (after .resetnAssert live).resetn = true ∧
    (live.resetn = false ∧ live.lane.buffer = none ∧ live.lane.queue.length < 8) ∧
    (fullLane.resetn = false ∧ fullLane.lane.buffer = none ∧ ¬ fullLane.lane.queue.length < 8) ∧
    parseRecord [] = none ∧ (parseRecord (encodeRecord ⟨0, 1, 0x40, 0, 0, [],
      crc16 [0, 1, 0x40, 0, 0, 0, 0, 0]⟩)).isSome = true := by
  decide +kernel

theorem witness_ResetPinHoldsAndReleasesTheNode :
    live.resetn = false ∧ (after .resetnAssert live).resetn = true := by decide +kernel

theorem witness_HeldNodeIgnoresEverything :
    HeldInReset (after .resetnAssert filling) ∧ (∀ pins, Instr.frameStartMark none pins0 ≠ .resetnRelease pins) ∧
    ∃ t, exec (.frameStartMark none pins0) (after .resetnAssert filling) = .next t :=
  ⟨⟨rfl, rfl, rfl, rfl, rfl, rfl⟩, by simp, _, rfl⟩

theorem witness_ThroughPortRepeatsTheStream :
    ∃ t, exec (.frameStartMark (some [0x01, 1]) pins0) filling = .next t := ⟨_, rfl⟩

/-! ### Witnesses: header lines, misses and stops -/

/-- The header of a frame for a canvas of 8192 × 1. -/
def headerOf (n : FrameNo) : List Byte := encodeHeader ⟨n, 23, 59, 59, 8192, 1⟩

/-- Frame 101 follows frame 100 with no take, with its take, or with a later one; frame 7 does not follow it. -/
theorem witness_GoodHeaderBeginsItsFrame :
    let due (target : FrameNo) : State :=
      { awaiting with tables := { awaiting.tables with pendingTake := some target } }
    (parseHeader (headerOf 101) = some ⟨101, 23, 59, 59, 8192, 1⟩ ∧ parseHeader (headerOf 7) =
      some ⟨7, 23, 59, 59, 8192, 1⟩) ∧
    (∀ s, s = awaiting ∨ s = lossWait 2 ∨ s = due 101 ∨ s = due 102 →
      s.resetn = false ∧ s.receiver.position = .awaitHeader ∧ (s.timing.link = .live ∨ s.timing.link = .lossWait) ∧
      s.intake = [] ∧ (101 : FrameNo) = s.timing.number + 1 ∧ (7 : FrameNo) ≠ s.timing.number + 1) := by
  refine ⟨by decide +kernel, ?_⟩
  rintro s (rfl | rfl | rfl | rfl)
  · exact ⟨rfl, rfl, .inl rfl, rfl, by decide, by decide⟩
  · exact ⟨rfl, rfl, .inr rfl, rfl, by decide, by decide⟩
  · exact ⟨rfl, rfl, .inl rfl, rfl, by decide, by decide⟩
  · exact ⟨rfl, rfl, .inl rfl, rfl, by decide, by decide⟩

/-- The first and the second header in SEARCH, the seventh and the eighth in STANDALONE, and a bad one. -/
theorem witness_HeadersCountTowardLive :
    (∀ good, good = 0 ∨ good = 1 →
      (counting .search good).receiver.position = .awaitHeader ∧ (counting .search good).intake = [] ∧
      (counting .search good).resetn = false ∧ (counting .search good).timing.link = .search ∧
      (counting .search good).timing.good = good) ∧
    (0 + 1 < 2 ∧ 2 ≤ 1 + 1 ∧ 6 + 1 < 8 ∧ 8 ≤ 7 + 1) ∧
    (∀ good, good = 6 ∨ good = 7 →
      (counting .standalone good).receiver.position = .awaitHeader ∧ (counting .standalone good).intake = [] ∧
      (counting .standalone good).resetn = false ∧ (counting .standalone good).timing.link = .standalone ∧
      (counting .standalone good).timing.good = good) ∧
    parseHeader [] = none ∧ (parseHeader (headerOf 7)).isSome = true :=
  ⟨fun _ _ => ⟨rfl, rfl, rfl, rfl, rfl⟩, by decide, fun _ _ => ⟨rfl, rfl, rfl, rfl, rfl⟩, by decide +kernel,
    by decide +kernel⟩

/-- The first miss, the second and the third, by a bad header and by the timer, with a take due, later and none. -/
theorem witness_MissesBeginPredictedFrames :
    let due (target : FrameNo) : State :=
      { lossWait 1 with tables := { awaiting.tables with pendingTake := some target } }
    (∀ s, s = awaiting ∨ s = lossWait 1 ∨ s = lossWait 2 ∨ s = due 101 ∨ s = due 102 →
      s.resetn = false ∧ s.frame.isSome = true ∧ s.intake = [] ∧ (s.timing.link = .live ∨ s.timing.link = .lossWait) ∧
      s.receiver.position = .awaitHeader ∧ s.timing.headerTimer = true ∧ (101 : FrameNo) = s.timing.number + 1) ∧
    parseHeader [] = none := by
  refine ⟨?_, by decide⟩
  rintro s (rfl | rfl | rfl | rfl | rfl)
  · exact ⟨rfl, rfl, rfl, .inl rfl, rfl, rfl, by decide⟩
  · exact ⟨rfl, rfl, rfl, .inr rfl, rfl, rfl, by decide⟩
  · exact ⟨rfl, rfl, rfl, .inr rfl, rfl, rfl, by decide⟩
  · exact ⟨rfl, rfl, rfl, .inr rfl, rfl, rfl, by decide⟩
  · exact ⟨rfl, rfl, rfl, .inr rfl, rfl, rfl, by decide⟩

/-- A frame whose lines are not arriving, and one whose lines are, with its last output line composed or none; a strip, a glyph
load and no request in flight. -/
theorem witness_StopsEndArrivingInputLines :
    inputRunning inFrame = false ∧ inFrame.resetn = false ∧ inputRunning filling = true ∧ filling.resetn = false ∧
    ((filling.frame.map fun f => (f.kind, f.nextLine < f.snap.settings.vh)) = some (.goodHeader, True)) ∧
    filling.timing.missed = false ∧ filling.timing.link = .live ∧ filling.capture.inFlight.isSome = true ∧
    inputRunning { live with frame := some { frame0 with inputOpen := true, kind := .badHeader, nextLine := 1080 } } =
      true ∧
    frame0.snap.settings.vh ≤ 1080 ∧
    (filling.capture.inFlight = some ⟨.strip 20 1 0 0 2, 0⟩ ∧ inputRunning live = true ∧ live.capture.inFlight = none ∧
      (∀ n, inputRunning { live with capture := ⟨[], some ⟨.glyph 3 11 0 0 64 96, n⟩⟩ } = true) ∧
      frame0.tiles = [] ∧ frame0.snap.high0 = none ∧ frame0.snap.high1 = none) := by
  refine ⟨rfl, rfl, rfl, rfl, ?_, rfl, rfl, rfl, rfl, by decide +kernel, rfl, rfl, rfl, fun _ => rfl, rfl, rfl, rfl⟩
  have h : (0 : Nat) < frame0.snap.settings.vh := by decide +kernel
  simp only [filling, live, Option.map_some, Option.some.injEq, Prod.mk.injEq, eq_iff_iff, iff_true, true_and]
  exact h

/-- A header line, a packet line and an ACTIVE line cut short; a packet that had not arrived whole; a line gap that acts and one
that does not. -/
theorem witness_StopsEndArrivingInputLines_cut :
    let mark (cut : Option (List Byte)) : Instr := .frameStartMark cut pins0
    let gap (cut : Option (List Byte)) : Instr := .lineGapTimeout cut pins0
    mark none ≠ .lineGapTimeout none pins0 ∧ (gap none = .lineGapTimeout none pins0 ∧ inputRunning filling = true) ∧
    ¬ (gap none = .lineGapTimeout none pins0 → inputRunning inFrame = true) ∧
    awaiting.receiver.position = .awaitHeader ∧
    (filling.receiver.position = .lines 0 ∧ filling.receiver.position ≠ .awaitHeader ∧
      [(0x02 : Byte), 0xF0].head? = some 0x02 ∧ [(0x01 : Byte), 1].head? ≠ some 0x02) ∧
    (parsePacket [0xF0] = none ∧ parsePacket ((encodePacket ⟨toAll, 0x21, [0, 1, 2]⟩).take 8) = none ∧
      (parsePacket (encodePacket ⟨toAll, 0x21, [0, 1, 2]⟩)).isSome = true) := by
  decide +kernel

/-- Before the first ACTIVE line, after it, and before the first mark; a CRC that checks and one that does not. -/
theorem witness_PacketLinesReachIntakeBeforeActiveLines :
    let k : Packet := ⟨toAll, 0x21, [0, 1, 2]⟩
    live.resetn = false ∧ k.payload.length ≤ 240 ∧ live.receiver.position = .lines 0 ∧
    (0 < 65536 ∧ 0 ≠ (crc16 (packetBody k)).toNat) ∧
    { live.receiver with position := .lines (0 + 1) }.position = .lines (0 + 1) ∧
    [(0x02 : Byte)].head? = some 0x02 ∧ ([(0x03 : Byte)].head? ≠ some 0x02 ∧ [(0x03 : Byte)].head? ≠ some 0x01) ∧
    inFrame.resetn = false ∧ inFrame.receiver.position = .outside := by
  decide +kernel

/-- Line 0 of a viewport of the whole canvas, whose columns 0 and 1 have pixels; the line after the last; a frame whose lines
do not arrive. -/
theorem witness_ActiveLinesComposeTheirOutputLine :
    live.resetn = false ∧ live.receiver.position = .lines 0 ∧ live.frame.isSome = true ∧ inputRunning live = true ∧
    (frame0.snap.settings.vy ≤ 0 ∧ 0 < frame0.snap.settings.vy + frame0.snap.settings.vh) ∧
    ¬ (1080 < frame0.snap.settings.vy + frame0.snap.settings.vh) ∧
    (frame0.tiles = [] ∧ frame0.snap.high0 = none ∧ frame0.snap.high1 = none ∧ 1919 < frame0.snap.settings.vw) ∧
    inputRunning { inFrame with receiver := live.receiver } = false := by
  refine ⟨rfl, rfl, rfl, rfl, by decide +kernel, by decide +kernel, ⟨rfl, rfl, rfl, by decide +kernel⟩, rfl⟩

/-- What can begin a frame: the local frame timer, the header timer, a bad header, and good headers in LIVE, as the second in SEARCH
and as the eighth in STANDALONE, with the state each is shown in. -/
def beginnings : List (State × Instr) :=
  [(inFrame, .localFrameTimerExpires pins1), (awaiting, .headerTimerExpires pins1), (lossWait 2, .headerLineEnd [] pins1),
   (awaiting, .headerLineEnd (headerOf 101) pins1), (counting .search 1, .headerLineEnd (headerOf 7) pins1),
   (counting .standalone 7, .headerLineEnd (headerOf 7) pins1)]

/-- Each of them begins a frame, whatever the tables, the audit, the engine, the panel and the queues hold. -/
theorem beginnings_begin : ∀ b ∈ beginnings, b.1.resetn = false ∧ BeginsFrame b.1 b.2 ∧ PanelSafe b.1.output := by
  simp only [beginnings, List.forall_mem_cons, List.not_mem_nil, false_imp_iff, implies_true, and_true]
  have safe : PanelSafe State.reset.output := ⟨fun _ => rfl, by decide⟩
  have good : (parseHeader (headerOf 7)).isSome = true := by decide +kernel
  exact ⟨⟨rfl, ⟨rfl, .inl rfl⟩, safe⟩, ⟨rfl, ⟨rfl, .inl rfl⟩, safe⟩, ⟨rfl, ⟨rfl, .inr (.inl rfl)⟩, safe⟩,
    ⟨rfl, ⟨rfl, .inl rfl⟩, safe⟩, ⟨rfl, ⟨rfl, .inr (.inr ⟨good, .inl ⟨rfl, by decide⟩⟩)⟩, safe⟩,
    ⟨rfl, ⟨rfl, .inr (.inr ⟨good, .inr ⟨rfl, by decide⟩⟩)⟩, safe⟩⟩

/-- A photo of one column and a request in flight or waiting, in a node that a good header of 8192 × 1 reaches: sources that end
at the canvas edge and one column past it; an engine with nothing to arm; a strip and a glyph load in flight. -/
theorem witness_GoodHeadersArmTheOldestRequest :
    let engine (capture : CaptureEngine) : State :=
      { awaiting with photos := filling.photos, capture := capture }
    (∀ capture line,
      (engine capture).resetn = false ∧ BeginsFrame (engine capture) (.headerLineEnd line pins0) ∧
      streamOf (.headerLineEnd line pins0) = [.line line]) ∧
    (∀ b ∈ beginnings, BeginsFrame b.1 b.2) ∧
    (parseHeader (headerOf 101) = some ⟨101, 23, 59, 59, 8192, 1⟩ ∧ parseHeader [] = none ∧
      streamOf (.headerTimerExpires pins0) = []) ∧
    tget filling.photos.directory 20 = some (newPhoto 1 2 none [0]) ∧
    (8191 + (newPhoto 1 2 none [0]).w ≤ 8192 ∧ 0 + 1 ≤ 1 ∧ 8192 < 8192 + (newPhoto 1 2 none [0]).w ∧ 1 < 0 + 2) ∧
    (8191 + 1 ≤ 8192 ∧ 8192 < 8191 + 2) ∧
    (let waits : CaptureEngine := ⟨[.strip 20 8191 0 0 1, .strip 20 0 0 1 1], none⟩
     (engine waits).capture.inFlight = none ∧ (engine waits).capture.queue = .strip 20 8191 0 0 1 :: [.strip 20 0 0 1 1]) ∧
    (engine ⟨[], some ⟨.strip 20 1 0 0 2, 1⟩⟩).capture.inFlight = some ⟨.strip 20 1 0 0 2, 1⟩ ∧
    (engine ⟨[], some ⟨.glyph 3 11 0 0 64 96, 1⟩⟩).capture.inFlight = some ⟨.glyph 3 11 0 0 64 96, 1⟩ :=
  ⟨fun _ _ => ⟨rfl, ⟨rfl, .inl rfl⟩, rfl⟩, fun b hb => (beginnings_begin b hb).2.1, by decide +kernel, rfl,
    by decide, by decide,
    ⟨rfl, rfl⟩, rfl, rfl⟩

/-- The node with a frame whose tiles take the whole budget of line 0. -/
def spent : State :=
  let photo : PhotoRec := ⟨.ready, 512, 512, none, [], 512, .done, 0⟩
  let tile (id : Nat) : TileEntry :=
    frameTile { snapshotOf State.reset with photos := [(21, .ready)] } id
      ⟨.photo (some 21) 0 0, 0, 0, 512, 1, 0, none, none, 255, .always, .keep, 0⟩
  { filling with
    photos := { filling.photos with directory := filling.photos.directory ++ [(21, photo)] }
    frame := some { frame0 with kind := .goodHeader, inputOpen := true, tiles := [0, 1, 2, 3, 4, 5].map tile } }

/-- A strip of two rows at its first line, at its last and past it; a line that carries its columns and one that does not; a budget
that covers the photo and one that is spent; cell lines of a glyph, the first, the last, past it, and one too short. -/
theorem witness_CaptureLinesWriteTheirSourceAndEnd :
    let whole : List Byte := [1, 2, 3, 4, 5, 6]
    let record := newPhoto 1 2 none [0]
    let loading (h : Nat) : State :=
      { live with
        glyphs := { live.glyphs with slots := live.glyphs.slots.set 47 (.loading []) }
        capture := ⟨[], some ⟨.glyph 3 11 0 0 2 h, 0⟩⟩ }
    (filling.resetn = false ∧ filling.receiver.position = .lines 0 ∧ filling.frame.isSome = true ∧
      inputRunning filling = true ∧ canvasWidth filling = 4 ∧ tget filling.photos.directory 20 = some record ∧
      filling.capture.inFlight = some ⟨.strip 20 1 0 0 2, 0⟩) ∧
    (spent.resetn = false ∧ spent.receiver.position = .lines 0 ∧ inputRunning spent = true ∧
      tget spent.photos.directory 20 = some record ∧ spent.capture.inFlight = some ⟨.strip 20 1 0 0 2, 0⟩ ∧
      (spent.frame.map fun f => (lineGrants spent f 0).2) = some 0 ∧ 0 < record.w) ∧
    (filling.frame.map fun f => (lineGrants filling f 0).2) = some 3072 ∧ record.w ≤ 3072 ∧
    (BlocksPartitioned filling.photos ∧ PhotosSized filling.photos ∧ StripsInPhotos filling) ∧
    ((1 + record.w ≤ 4 ∧ 3 * (1 + record.w) ≤ whole.length) ∧ ¬ 3 * (1 + record.w) ≤ [(1 : Byte), 2, 3, 4, 5].length) ∧
    ((0 ≤ 0 ∧ 0 < 0 + 2 ∧ 0 + 1 < 0 + 2) ∧ (1 + 1 = 0 + 2 ∧ 0 + 2 ≤ 2)) ∧
    (∀ h, (loading h).resetn = false ∧ (loading h).receiver.position = .lines 0 ∧ inputRunning (loading h) = true ∧
      (loading h).capture.inFlight = some ⟨.glyph 3 11 0 0 2 h, 0⟩ ∧
      (loading h).glyphs.slots = live.glyphs.slots.set 47 (.loading [])) ∧
    (live.glyphs.slots.set 47 (.loading []))[3 * 12 + 11]? = some (.loading []) ∧
    ((0 + 2 ≤ 4 ∧ 3 * (0 + 2) ≤ whole.length) ∧ 0 + 1 < 0 + 96 ∧ 0 + 1 = 0 + 1) ∧ live.capture.inFlight = none :=
  ⟨⟨rfl, rfl, rfl, rfl, rfl, rfl, rfl⟩, ⟨rfl, rfl, rfl, rfl, rfl, by decide +kernel, by decide⟩,
    by decide +kernel, by decide,
    ⟨filling_partitioned, filling_sized, filling_strips⟩, by decide, by decide,
    fun _ => ⟨rfl, rfl, rfl, rfl, rfl⟩, by decide +kernel, by decide, rfl⟩

/-- Photo 21 beside the strip of photo 20 in flight; and no strip in flight. -/
theorem witness_StripLinesWriteOnlyTheirPhoto :
    let both : State :=
      { filling with
        photos :=
          { filling.photos with
            directory := [(20, newPhoto 1 2 none [0]), (21, newPhoto 1 1 none [1])], free := List.range' 2 6142 } }
    BlocksPartitioned both.photos ∧ (∃ t, exec (.activeLine [0x01, 1, 2, 3, 4, 5, 6]) both = .next t) ∧
    (tget both.photos.directory 21 = some (newPhoto 1 1 none [1]) ∧
      ∀ x y row rows n, both.capture.inFlight ≠ some ⟨.strip 21 x y row rows, n⟩) ∧
    ∀ id x y row rows n, live.capture.inFlight ≠ some ⟨.strip id x y row rows, n⟩ := by
  refine ⟨⟨rfl, ?_⟩, ⟨_, rfl⟩, ⟨rfl, by simp [filling]⟩, by intro id x y row rows n h; cases h⟩
  have blocks : List.range Config.blockCount = [0, 1] ++ List.range' 2 6142 := by
    rw [List.range_eq_range']; rfl
  rw [blocks]
  exact List.perm_append_comm

/-! ### Witnesses: timers -/

theorem witness_GapTimerAndClockAdvance :
    let s : State :=
      { counting .standalone 7 with
        timing := { (counting .standalone 7).timing with hour := 23, minute := 59, second := 59 } }
    s.timing.headerTimer = true ∧ s.timing.link = .standalone ∧ s.resetn = false ∧ TimingInRange s.timing :=
  ⟨rfl, rfl, rfl, by unfold TimingInRange; decide +kernel⟩

/-- The first frame after a reset, with a packet that has waited for it; a later one with a schedule, where an override
UNTIL_BOUNDARY meets a boundary and where it does not. -/
theorem witness_LocalFrameFixesItsSnapshot :
    let first : State := { State.reset with intake := [queryPacket] }
    let e : SchedEntry := ⟨1439, 7, 3, 255⟩
    let boundary : PrevEntry := ⟨1439, 7, 3⟩
    let scheduled (prev : Option PrevEntry) : State :=
      { inFrame with
        tables := { inFrame.tables with live := { emptyBank with schedule := [e] } }
        timing := { inFrame.timing with timeValid := true }
        context := { inFrame.context with override := some ⟨.untilBoundary, 6, 2⟩, prev := prev } }
    (∀ s, s = first ∨ s = scheduled none ∨ s = scheduled (some boundary) →
      s.resetn = false ∧ s.timing.localTimer = true ∧ s.timing.link = .search ∧ s.tables.pendingTake = none ∧
      0 < s.context.settings.vh) ∧
    first.intake ≠ [] ∧ activeEntry true 0 [e] = some (0, e) ∧ activeEntry false 0 [] = none ∧
    ((scheduled none).context.prev ≠ some boundary ∧ (scheduled (some boundary)).context.prev = some boundary) := by
  refine ⟨?_, by decide, by decide, by decide, by decide, rfl⟩
  rintro s (rfl | rfl | rfl) <;> exact ⟨rfl, rfl, rfl, rfl, by decide⟩

/-- Every kind of frame start, with a glyph load, a strip or nothing in flight, an override and a backlight override held or not,
and packets that wait; the frames they begin are local ones and others; with an active entry and with none. -/
theorem witness_EveryFrameStartFixesItsSnapshot :
    let e : SchedEntry := ⟨1439, 7, 3, 255⟩
    (∀ b ∈ beginnings, ∀ capture override held valid,
      let s : State :=
        { b.1 with
          tables := { b.1.tables with live := { mealBank with schedule := [e] } }, photos := filling.photos
          capture := capture, context := { b.1.context with override := override }
          output := { b.1.output with override := held }, timing := { b.1.timing with timeValid := valid }
          intake := [queryPacket] }
      s.resetn = false ∧ BeginsFrame s b.2 ∧ s.tables.pendingTake = none ∧ s.capture = capture ∧
      s.context.override = override ∧ s.output.override = held) ∧
    activeEntry true 0 [e] = some (0, e) ∧ activeEntry false 0 [e] = none ∧
    ((after (.localFrameTimerExpires pins1) inFrame).frame.map Frame.kind) = some .localFrame ∧
    ((after (.headerLineEnd (headerOf 101) pins1) awaiting).frame.map Frame.kind) = some .goodHeader ∧
    0 < frame0.snap.settings.vh ∧
    { frame0.snap.settings with vh := 0 }.vh = 0 := by
  refine ⟨?_, by decide, by decide, by decide +kernel, by decide +kernel, by decide +kernel, rfl⟩
  intro b hb capture override held valid s
  refine ⟨(beginnings_begin b hb).1, ?_, ?_, rfl, rfl, rfl⟩
  · have begins := (beginnings_begin b hb).2.1
    simp only [beginnings, List.mem_cons, List.not_mem_nil, or_false] at hb
    rcases hb with rfl | rfl | rfl | rfl | rfl | rfl <;> exact begins
  · simp only [beginnings, List.mem_cons, List.not_mem_nil, or_false] at hb
    rcases hb with rfl | rfl | rfl | rfl | rfl | rfl <;> rfl

/-- A sample that agrees, and the third and the fourth that do not, at every kind of frame start, with a packet that waits. -/
theorem witness_FrameStartsDebouncePanelAndFadeBacklight :
    ∀ b ∈ beginnings, ∀ debounce, debounce = 2 ∨ debounce = 3 →
      let s : State := { b.1 with output := { inFrame.output with debounce := debounce }, intake := [queryPacket] }
      s.resetn = false ∧ BeginsFrame s b.2 ∧ PanelSafe s.output ∧ s.output.debounce = debounce ∧
      (pinsOf s b.2).panelSense = true ∧ s.output.panel = .absent := by
  intro b hb debounce hd s
  have hp : (pinsOf s b.2).panelSense = true := by
    simp only [beginnings, List.mem_cons, List.not_mem_nil, or_false] at hb
    rcases hb with rfl | rfl | rfl | rfl | rfl | rfl <;> rfl
  refine ⟨(beginnings_begin b hb).1, (beginnings_begin b hb).2.1, ⟨fun _ => rfl, ?_⟩, rfl, hp, rfl⟩
  change debounce < 4
  omega

/-- No check enabled; check 1 not begun; check 1 running with check 5 enabled after it, and check 5 alone: at every kind of frame
start, with a capture in flight and a packet that waits. -/
theorem witness_AuditRunsOneCheckPerFrame :
    ∀ b ∈ beginnings, ∀ next running mask,
      (next = none ∧ running = false ∧ mask = ⟨false, false, false, false, false⟩) ∨
        (next = some 1 ∧ running = false ∧ mask = ⟨true, false, false, false, true⟩) ∨
        (next = some 1 ∧ running = true ∧ mask = ⟨true, false, false, false, true⟩) ∨
        (next = some 5 ∧ running = true ∧ mask = ⟨true, false, false, false, true⟩) →
      let s : State :=
        { b.1 with
          tables := (auditing next running mask).tables, audit := (auditing next running mask).audit
          capture := filling.capture, photos := filling.photos, intake := [queryPacket] }
      s.resetn = false ∧ BeginsFrame s b.2 ∧ TakeSafe s ∧ s.audit.progress = some ⟨mask, next, running⟩ := by
  intro b hb next running mask _ s
  refine ⟨(beginnings_begin b hb).1, (beginnings_begin b hb).2.1, ⟨⟨fun _ => rfl, fun _ => rfl⟩, ?_⟩, rfl⟩
  intro h
  cases h

/-- What check 1 answers for the meal's bank, and for a bank whose combo names an item that is missing. -/
theorem witness_AuditRunsOneCheckPerFrame_checks :
    let s := auditing (some 1) true ⟨true, false, false, false, true⟩
    let t : State :=
      { s with
        tables :=
          { s.tables with
            staged :=
              { emptyBank with
                tiles := [(0, ⟨.photo none 0 0, 0, 0, 1, 1, 0, some 7, none, 255, .always, .keep, 0⟩)] } } }
    runCheck (failInFlight s .lost) 1 = none ∧ (runCheck (failInFlight t .lost) 1).isSome = true ∧
    maskHas ⟨true, false, false, false, true⟩ 5 = true ∧
    (∀ e, 1 < e → e < 5 → maskHas ⟨true, false, false, false, true⟩ e = false) := by
  refine ⟨by decide +kernel, by decide +kernel, rfl, ?_⟩
  intro e h1 h5
  have : e = 2 ∨ e = 3 ∨ e = 4 := by omega
  rcases this with rfl | rfl | rfl <;> rfl

/-- No frame, a frame whose input lines arrive, and local frames with a line left and with none. -/
theorem witness_LocalLinesComposeTheNextLineOverFill :
    State.reset.frame = none ∧ inputRunning live = true ∧ inFrame.frame = some frame0 ∧ inputRunning inFrame = false ∧
    frame0.nextLine < frame0.snap.settings.vh ∧ frame0.snap.settings.vh ≤ 1080 ∧ inFrame.output.panel = .absent ∧
    { inFrame.output with panel := .present }.panel = .present ∧ frame0.tiles = [] ∧ frame0.snap.high0 = none ∧
    frame0.snap.high1 = none :=
  ⟨rfl, rfl, rfl, rfl, by decide +kernel, by decide +kernel, rfl, rfl, rfl, rfl, rfl⟩

/-! ### Witnesses: what a frame is drawn from -/

/-- The entry at the minute, and the last entry where every start lies above it. -/
theorem witness_ActiveEntryIsTheLatestStarted :
    let l : List SchedEntry := [⟨1, 0, 0, 0⟩, ⟨1439, 7, 3, 255⟩]
    List.Pairwise (fun a b => a.start < b.start) l ∧ activeEntry true 1438 l = some (0, ⟨1, 0, 0, 0⟩) ∧
    activeEntry true 0 l = some (1, ⟨1439, 7, 3, 255⟩) := by
  decide +kernel

theorem witness_PricesRoundAndPrintAsTheFormatSays :
    (∀ r : Rounding, ({ defaultFormat with rounding := r, step := 10 } : PriceFormat).rounding = r) ∧
    (0 < (10 : Nat) ∧ mealBank.format.ending < mealBank.format.step) ∧ (0 : Nat) ≤ 999999 ∧ (999999 : Nat) ≤ 999999 :=
  ⟨fun _ => rfl, by decide, by decide⟩

/-- A photo of 2 × 1 whose first pixel is its key colour, and a digit 0 of font 0 of 1 × 2 with ink on its first line. -/
def drawing : State :=
  let photo : PhotoRec := ⟨.ready, 2, 1, some ⟨0, 255, 0⟩, [0], 1, .done, 0⟩
  { inFrame with
    photos :=
      { inFrame.photos with
        directory := [(20, photo)], memory := writePhotoRow photo 0 0 [⟨0, 255, 0⟩, ⟨200, 100, 50⟩] [] }
    glyphs := { inFrame.glyphs with slots := inFrame.glyphs.slots.set 0 (.loaded 1 2 [[true], [false]]) } }

/-- A snapshot of it in which item 40 prints as 00, with tile 47 of its page at (5, 5), 10 × 10. -/
def drawingSnap : Snapshot :=
  { snapshotOf drawing with
    bank :=
      { emptyBank with tiles := [(47, ⟨.panel, 5, 5, 10, 10, 0, none, none, 255, .always, .keep, 0⟩)] }
    cache := [(40, .priced 0 [0, 0])] }

/-- An entry at (5, 5), 4 × 2, white at 64 behind it, with a body and a content. -/
def drawingEntry (body : TileBody) (content : Content) : TileEntry :=
  { id := 0
    tile := ⟨body, 5, 5, 4, 2, 0, some 40, some ⟨⟨255, 255, 255⟩, 64⟩, 192, .always, .keep, 0⟩
    clip := ⟨5, 9, 5, 7⟩, shown := true, blinkVisible := true, dimmed := false, content := content, flags := noTileFlags }

/-- The text that starts at column 0 of the tile, one line below its top, with one column between its glyphs. -/
def drawingStyle : PriceStyle := ⟨0, ⟨9, 9, 9⟩, .left, 0, 1, 1⟩

/-- Section 6.7 drawn: blue below, the fill alone where the pixel is the key colour, past the photo or degraded, the photo's
pixel, and both dimmed; the ink of a text at columns 5 and 7 of line 6; a ring of thickness 1 at 2 columns round the tile. -/
theorem test_drawing :
    let blue : Color := ⟨0, 0, 255⟩
    let photo := drawingEntry (.photo (some 20) 0 0) (.photo 20)
    let text := { drawingEntry (.price drawingStyle) (.text 0) with dimmed := true }
    let ink (x n : Nat) : Bool := drawTile drawing drawingSnap n x blue (text, false) != blend ⟨96, 96, 96⟩ blue 64
    drawTile drawing drawingSnap 5 5 blue (photo, false) = ⟨64, 64, 255⟩ ∧
    drawTile drawing drawingSnap 5 6 blue (photo, false) = ⟨166, 91, 101⟩ ∧
    drawTile drawing drawingSnap 5 6 blue (photo, true) = ⟨64, 64, 255⟩ ∧
    drawTile drawing drawingSnap 5 7 blue (photo, false) = ⟨64, 64, 255⟩ ∧
    drawTile drawing drawingSnap 7 6 blue (photo, false) = blue ∧
    [5, 6, 7, 8].map (ink · 6) = [true, false, true, false] ∧ [5, 6, 7, 8].map (ink · 5) = [false, false, false, false] ∧
    [2, 3, 4].map (fun x => drawRing drawingSnap (some ⟨47, 2, 1, ⟨255, 0, 0⟩, 0⟩) 8 x blue) =
      [blue, ⟨255, 0, 0⟩, blue] ∧
    drawRing { drawingSnap with page := 1 } (some ⟨47, 2, 1, ⟨255, 0, 0⟩, 0⟩) 8 3 blue = blue := by
  decide +kernel

/-- The alphas 0 and 255; a slot without a ring, and a ring at its first column and inside it; a pixel outside the tile, one that
is the key colour, one that is not, and one past the photo; a photo without a record; ink and none. -/
theorem witness_TilesAndRingsDrawAsTheirRulesSay :
    let h : Highlight := ⟨47, 2, 1, ⟨255, 0, 0⟩, 0⟩
    let ringed (n x : Nat) : Prop :=
      ∃ t, tget drawingSnap.bank.tiles (drawingSnap.page * 48 + h.tile) = some t ∧
        (h.blink = 0 ∨ drawingSnap.number.toNat / h.blink.toNat % 2 = 0) ∧
        (t.x - h.margin ≤ x ∧ (x : Int) < t.x + t.w + h.margin ∧ t.y - h.margin ≤ n ∧
          (n : Int) < t.y + t.h + h.margin) ∧
        ((x : Int) < t.x - h.margin + h.thickness ∨ t.x + t.w + h.margin - h.thickness ≤ x ∨
          (n : Int) < t.y - h.margin + h.thickness ∨ t.y + t.h + h.margin - h.thickness ≤ n)
    let e := drawingEntry (.photo (some 20) 0 0) (.photo 20)
    let text := drawingEntry (.price drawingStyle) (.text 0)
    let covers (n x : Nat) : Prop :=
      e.shown = true ∧ e.blinkVisible = true ∧ e.clip.x0 ≤ x ∧ x < e.clip.x1 ∧ e.clip.y0 ≤ n ∧ n < e.clip.y1
    let px (x : Nat) : Int := (x : Int) - e.tile.x - 0
    let top : Int := text.tile.y + drawingStyle.textTop
    ((0 : Nat) ≤ 255 ∧ (255 : Nat) ≤ 255) ∧ (ringed 3 3 ∧ ¬ ringed 4 4) ∧ (¬ covers 5 4 ∧ covers 5 5 ∧ covers 6 8) ∧
    ((drawingEntry .panel .none).content = .none ∧ e.content = .photo 20 ∧ e.tile.body = .photo (some 20) 0 0 ∧
      tget drawing.photos.directory 20 ≠ none ∧ tget inFrame.photos.directory 20 = none) ∧
    (∃ r, tget drawing.photos.directory 20 = some r ∧ (0 ≤ px 5 ∧ px 6 < r.w ∧ ¬ px 7 < r.w) ∧
      r.key = some (photoPixel drawing.photos.memory r (px 5).toNat 0) ∧
      r.key ≠ some (photoPixel drawing.photos.memory r (px 6).toNat 0)) ∧
    (text.content = .text 0 ∧ text.tile.body = .price drawingStyle ∧ text.tile.item = some 40 ∧ text.tile.x ≤ 5 ∧
      tget drawingSnap.cache 40 = some (.priced 0 [0, 0])) ∧
    ((top ≤ 6 ∧ ¬ top ≤ 5) ∧
      drawing.glyphs.slots.getD (drawingStyle.font * 12 + 0) .empty = .loaded 1 2 [[true], [false]]) := by
  refine ⟨by decide, ⟨⟨_, rfl, .inl rfl, by decide, by decide⟩, ?_⟩, by decide, by decide,
    ⟨_, rfl, by decide, by decide +kernel⟩, by decide, by decide +kernel⟩
  rintro ⟨t, ht, -, -, edge⟩
  cases ht
  exact absurd edge (by decide)

/-! ### Witnesses: what the snapshot's tables hold -/

/-- R60 to R62: with the fries sold out the meal is offered and not available; in column 0 nothing is offered. -/
theorem test_item_statuses :
    let stock : List Stock := (List.replicate 512 .available).set 13 .soldOut
    [12, 13, 40, 99].map (tget (itemStatuses mealBank 1 stock)) =
      [some ⟨true, true⟩, some ⟨true, false⟩, some ⟨true, false⟩, none] ∧
    tget (itemStatuses mealBank 0 stock) 40 = some ⟨false, false⟩ := by decide +kernel

/-- An item without a record, a burger in a column with its price and in one without, and the meal in both. -/
theorem witness_ItemStatusesAndPricesFollowTheirRules :
    let price (column item v : Nat) : Prop :=
      ∃ prices photo, tget mealBank.items item = some ⟨.simple prices, photo⟩ ∧ columnGet prices column = some v
    let burger : PerColumn (Option Nat) := ⟨none, some 549, none, none⟩
    let meal : List Component := [⟨12, 1⟩, ⟨13, 1⟩, ⟨14, 1⟩]
    tget mealBank.items 99 = none ∧
    (tget mealBank.items 12 = some ⟨.simple burger, none⟩ ∧ columnGet burger 0 = none ∧ columnGet burger 1 = some 549) ∧
    tget mealBank.items 40 = some ⟨.combo meal 150, none⟩ ∧
    (∃ c ∈ meal, ∀ p, ¬ price 0 c.item p) ∧ List.Forall₂ (fun c p => price 1 c.item p) meal [549, 289, 199] := by
  refine ⟨by decide, by decide, by decide, ⟨_, List.mem_cons_self, ?_⟩,
    .cons ⟨_, _, rfl, rfl⟩ (.cons ⟨_, _, rfl, rfl⟩ (.cons ⟨_, _, rfl, rfl⟩ .nil))⟩
  rintro p ⟨prices, photo, hp, hc⟩
  cases hp
  cases hc

/-- A price tile of the last id, beside a tile that is none, with its item missing, not offered, in overflow and priced; in a font
that is not loaded, and in one whose glyphs of 28 columns are wider than the tile and as wide, by its tracking. -/
theorem witness_TextPlansFollowTheOrderOfTests :
    let style (tracking : Nat) : PriceStyle := ⟨3, ⟨0, 0, 0⟩, .right, 3, 0, tracking⟩
    let tile (tracking : Nat) : TileRec :=
      ⟨.price (style tracking), 0, 0, 64, 40, 0, some 40, none, 255, .always, .keep, 0⟩
    let panel : TileRec := ⟨.panel, 0, 0, 1, 1, 0, none, none, 255, .always, .keep, 0⟩
    let bank (tracking : Nat) : Bank := { mealBank with tiles := [(336, panel), (383, tile tracking)] }
    let loaded : List GlyphSlot := List.replicate 48 (.loaded 28 40 [])
    let plan (cache : Table PriceEntry) (tracking : Nat) (slots : List GlyphSlot) : Option TextPlan :=
      tget (textPlans (bank tracking) 7 cache (slots.map slotLoaded) slots) 47
    let priced : Table PriceEntry := [(40, .priced 47 [4, 7])]
    (∀ tracking, sortedKeys (bank tracking).tiles = true ∧ tget (bank tracking).tiles (7 * 48 + 47) = some (tile tracking) ∧
      tget (bank tracking).tiles (7 * 48 + 0) = some panel ∧ (tile tracking).body = .price (style tracking) ∧
      (tile tracking).item = some 40) ∧ 47 < 48 ∧
    (plan [] 2 loaded = some .noItem ∧ plan [(40, .notOffered)] 2 loaded = some .noPrice ∧
      plan [(40, .overflow 1000000)] 2 loaded = some .overflow ∧ plan priced 2 (List.replicate 48 .empty) = some .noGlyph ∧
      plan priced 3 loaded = some .tooWide ∧ plan priced 2 loaded = some (.text 3 58)) ∧
    List.Forall₂ (fun g w => ∃ h bitmap, loaded[3 * 12 + g]? = some (.loaded w h bitmap)) [4, 7] [28, 28] ∧
    (∀ w h bitmap, (List.replicate 48 GlyphSlot.empty)[3 * 12 + 4]? ≠ some (.loaded w h bitmap)) ∧
    (64 < 28 + 28 + 3 * (2 - 1) + 2 * 3 ∧ 28 + 28 + 2 * (2 - 1) + 2 * 3 ≤ 64) := by
  refine ⟨fun _ => ⟨rfl, rfl, rfl, rfl, rfl⟩, by decide, by decide +kernel,
    .cons ⟨_, _, rfl⟩ (.cons ⟨_, _, rfl⟩ .nil), ?_, by decide⟩
  intro w h bitmap e
  cases e

/-- A page with a tile of every content and flag: ids 1 to 5 are photos that are READY, without a record, selected by none, under
a MISSING item and OPEN; 6 to 10 prices with each plan; 47 takes its item's default photo; 0 is a panel; and another page. -/
def pageSnap : Snapshot :=
  let tile (body : TileBody) (z : Byte) (item : Option Nat) (showWhen : ShowWhen) (treatment : Treatment) : TileRec :=
    ⟨body, -1, 1078, 2048, 4, z, item, none, 255, showWhen, treatment, 15⟩
  let price : TileBody := .price ⟨0, ⟨0, 0, 0⟩, .left, 0, 0, 0⟩
  { snapshotOf inFrame with
    number := 15
    bank :=
      { mealBank with
        items := [(12, ⟨.simple ⟨none, none, none, none⟩, none⟩), (40, ⟨.simple ⟨none, none, none, none⟩, some 20⟩)]
        tiles :=
          [(0, tile .panel 5 none .always .keep), (1, tile (.photo (some 20) 0 0) 0 none .always .keep),
           (2, tile (.photo (some 22) 0 0) 0 none .soldOut .keep), (3, tile (.photo none 0 0) 0 (some 12) .always .hide),
           (4, tile (.photo (some 20) 0 0) 0 (some 99) .always .keep), (5, tile (.photo (some 21) 0 0) 3 none .always .keep),
           (6, tile price 0 (some 40) .available .keep), (7, tile price 0 (some 40) .soldOut .keep),
           (8, tile price 0 (some 40) .always .hide), (9, tile price 0 (some 40) .always .keep),
           (10, tile price 0 (some 40) .always .keep), (47, tile (.photo none 0 0) 0 (some 40) .always .dim),
           (48, tile .panel 0 none .always .keep)] }
    status := [(12, ⟨true, true⟩), (40, ⟨true, false⟩)]
    plans := [(6, .text 7 20), (7, .overflow), (8, .tooWide), (9, .noGlyph), (10, .noPrice)]
    photos := [(20, .ready), (21, .opened)] }

/-- R14, R117 to R120, R136 on that page, in frame 15 with half-period 15: nothing is blink visible. -/
theorem test_frame_tiles :
    ((frameTiles pageSnap).map fun e => (e.id, e.shown, e.dimmed, e.content)) =
      [(1, true, false, .photo 20), (2, false, false, .none), (3, true, false, .none), (4, true, false, .none),
       (6, false, false, .text 7), (7, true, false, .none), (8, false, false, .none), (9, true, false, .none),
       (10, true, false, .none), (47, true, true, .photo 20), (5, true, false, .none), (0, true, false, .none)] ∧
    ((frameTiles pageSnap).filterMap fun e => if e.flags = noTileFlags then none else some (e.id, e.flags)) =
      [(2, ⟨true, false, false, false, false⟩), (4, ⟨true, false, false, false, false⟩),
       (7, ⟨false, false, true, false, false⟩), (8, ⟨false, false, true, false, false⟩),
       (9, ⟨false, false, false, true, false⟩), (5, ⟨false, true, false, false, false⟩)] ∧
    ∀ e ∈ frameTiles pageSnap, e.clip = ⟨0, 1920, 1078, 1080⟩ ∧ e.blinkVisible = false := by
  decide +kernel

/-- What each clause asks of a tile of that page. -/
theorem witness_FrameTilesFollowTheirRecords :
    let item (id : Nat) : Option Nat := (tget pageSnap.bank.tiles id).bind fun t => t.item
    let body (id : Nat) : Option TileBody := (tget pageSnap.bank.tiles id).map fun t => t.body
    sortedKeys pageSnap.bank.tiles = true ∧ frameTiles pageSnap ≠ [] ∧ pageSnap.page = 0 ∧
    (item 4 = some 99 ∧ tget pageSnap.status 99 = none) ∧
    (item 47 = some 40 ∧ tget pageSnap.status 40 = some ⟨true, false⟩ ∧
      (tget pageSnap.bank.items 40).map (fun r => r.photo) = some (some 20) ∧ tget pageSnap.photos 20 = some .ready) ∧
    (body 0 = some .panel ∧ body 1 = some (.photo (some 20) 0 0) ∧ item 1 = none) ∧
    (body 3 = some (.photo none 0 0) ∧ item 3 = some 12 ∧
      (tget pageSnap.bank.items 12).map (fun r => r.photo) = some none) ∧
    (body 2 = some (.photo (some 22) 0 0) ∧ tget pageSnap.photos 22 = none ∧ body 5 = some (.photo (some 21) 0 0) ∧
      tget pageSnap.photos 21 = some .opened) ∧
    ((body 6).isSome = true ∧ [6, 7, 8, 9, 10].map (tget pageSnap.plans) =
      [some (.text 7 20), some .overflow, some .tooWide, some .noGlyph, some .noPrice]) := by
  decide +kernel

/-! ### Witnesses: what the audit's checks test -/

/-- A node with a bank staged and the photos 20, READY, and 21, OPEN. -/
def checking (b : Bank) : State :=
  { inFrame with
    tables := { inFrame.tables with staged := b }
    photos :=
      { inFrame.photos with
        directory := [(20, ⟨.ready, 512, 512, none, [], 512, .done, 0⟩), (21, newPhoto 512 512 none [])] } }

/-- A tile of 512 × 1 at the origin. -/
def checkedTile (body : TileBody) (item : Option Nat) : TileRec :=
  ⟨body, 0, 0, 512, 1, 0, item, none, 255, .always, .keep, 0⟩

/-- R34, R35, R38: a tile whose item is missing, then its photo, an item whose component is a COMBO, then its photo; the photo
named first that is not READY; no entry, and the second entry's page without a tile. -/
theorem test_checks_of_names :
    let tiles (item own : Option Nat) : Bank :=
      { mealBank with
        tiles := [(0, checkedTile (.photo (some 20) 0 0) (some 40)), (383, checkedTile (.photo own 0 0) item)] }
    let items (component : Nat) (photo : Option Nat) : Bank :=
      { mealBank with
        items := mealBank.items ++ [(511, ⟨.combo [⟨12, 1⟩, ⟨component, 1⟩] 0, photo⟩)] }
    runCheck (checking (tiles (some 99) (some 255))) 1 = some (.tile 7 47 99) ∧
    runCheck (checking (tiles (some 40) (some 255))) 1 = some (.tile 7 47 255) ∧
    runCheck (checking (tiles (some 40) (some 21))) 1 = none ∧
    runCheck (checking (items 40 (some 255))) 1 = some (.item 511 40) ∧
    runCheck (checking (items 13 (some 255))) 1 = some (.item 511 255) ∧
    runCheck (checking (tiles (some 40) (some 21))) 2 = some (.photo 21) ∧
    runCheck (checking (tiles (some 40) (some 255))) 2 = some (.photo 255) ∧
    runCheck (checking (items 13 (some 21))) 2 = some (.photo 21) ∧
    runCheck (checking mealBank) 5 = some .nothing ∧
    runCheck (checking { tiles none none with schedule := [⟨0, 7, 0, 0⟩, ⟨1439, 6, 3, 255⟩] }) 5 = some (.page 6 1) := by
  decide +kernel

/-- The splits of those banks at the names that fail, and what the clauses ask of the names before and at the split. -/
theorem witness_AuditChecksNamesPhotosAndSchedule :
    let good := checkedTile (.photo (some 20) 0 0) (some 40)
    let bad := checkedTile (.photo (some 255) 0 0) (some 99)
    let combo : ItemRec := ⟨.combo [⟨12, 1⟩, ⟨40, 1⟩] 0, some 21⟩
    let b : Bank :=
      { mealBank with
        items := mealBank.items ++ [(511, combo)], tiles := [(0, good), (383, bad)]
        schedule := [⟨0, 7, 0, 0⟩, ⟨1439, 6, 3, 255⟩] }
    let s := checking b
    let simple (item : Nat) : Prop := ∃ prices photo, tget b.items item = some ⟨.simple prices, photo⟩
    s.tables.staged = b ∧ b.tiles = [(0, good)] ++ (383, bad) :: [] ∧ b.items = mealBank.items ++ (511, combo) :: [] ∧
    ((∀ i, good.item = some i → (tget b.items i).isSome = true) ∧
      ∀ p, (∃ ox oy, good.body = .photo (some p) ox oy) →
        ∃ r, tget s.photos.directory p = some r ∧ r.state = .ready) ∧
    (bad.item = some 99 ∧ (tget b.items 99).isSome = false) ∧
    (bad.body = .photo (some 255) 0 0 ∧ tget s.photos.directory 255 = none) ∧
    ([⟨12, 1⟩, ⟨40, 1⟩] = [(⟨12, 1⟩ : Component)] ++ (⟨40, 1⟩ : Component) :: [] ∧ simple 12 ∧ ¬ simple 40) ∧
    (combo.photo = some 21 ∧ (tget s.photos.directory 21).isSome = true ∧
      ∀ r, tget s.photos.directory 21 = some r → r.state ≠ .ready) ∧
    (emptyBank.schedule = [] ∧ b.schedule = [⟨0, 7, 0, 0⟩] ++ ⟨1439, 6, 3, 255⟩ :: [] ∧
      (tget b.tiles (7 * 48 + 47)).isSome = true ∧ ∀ id, id < 48 → tget b.tiles (6 * 48 + id) = none) := by
  refine ⟨rfl, rfl, rfl, ⟨?_, ?_⟩, ⟨rfl, by decide⟩, ⟨rfl, by decide⟩, ⟨rfl, ⟨_, _, rfl⟩, ?_⟩,
    ⟨rfl, by decide, ?_⟩, rfl, rfl, by decide, by decide⟩
  · rintro i h
    cases h
    decide
  · rintro p ⟨ox, oy, h⟩
    cases h
    exact ⟨_, rfl, rfl⟩
  · rintro ⟨prices, photo, h⟩
    cases h
  · rintro r h
    cases h
    decide

/-- R36, R37: the burger's price in overflow, in a font not loaded, and wider than its tile in the second of the page's columns;
seven photo tiles of 512 columns on one line of page 7 take 3584 pixels, six of them 3072. -/
theorem test_checks_of_prices_and_lines :
    let style : PriceStyle := ⟨0, ⟨0, 0, 0⟩, .left, 0, 0, 0⟩
    let prices : PerColumn (Option Nat) := ⟨some 549, some 999999, none, none⟩
    let priced (w : Nat) (schedule : List SchedEntry) : Bank :=
      { emptyBank with
        items := [(12, ⟨.simple prices, none⟩)], schedule := schedule
        tiles := [(383, { checkedTile (.price style) (some 12) with w := w })]
        factors := ⟨1000, 2000, 1000, 1000⟩ }
    let loaded (w : Nat) (schedule : List SchedEntry) : State :=
      { checking (priced w schedule) with
        glyphs := { inFrame.glyphs with slots := List.replicate 48 (.loaded 10 10 []) } }
    let photos (n : Nat) : Bank :=
      { emptyBank with
        tiles := (List.range n).map fun id => (336 + id, checkedTile (.photo (some 20) 0 0) none) }
    runCheck (loaded 40 []) 3 = none ∧ runCheck (loaded 39 []) 3 = some (.tile 7 47 0) ∧
    runCheck (checking (priced 40 [])) 3 = some (.tile 7 47 0) ∧
    runCheck (loaded 40 [⟨0, 7, 0, 0⟩, ⟨9, 7, 1, 0⟩, ⟨10, 7, 2, 0⟩]) 3 = some (.tile 7 47 1) ∧
    runCheck (loaded 39 [⟨0, 7, 2, 0⟩, ⟨9, 6, 0, 0⟩]) 3 = none ∧
    runCheck (checking (photos 6)) 4 = none ∧ runCheck (checking (photos 7)) 4 = some (.page 7 0) := by
  decide +kernel

/-- What the clauses ask of those banks: the columns tested, the misfit, and the first line over the budget. -/
theorem witness_AuditChecksPricesAndLineDemands :
    let style : PriceStyle := ⟨0, ⟨0, 0, 0⟩, .left, 0, 0, 0⟩
    let tile := { checkedTile (.price style) (some 12) with w := 40 }
    let b : Bank :=
      { emptyBank with
        items := [(12, ⟨.simple ⟨some 549, some 999999, none, none⟩, none⟩)], tiles := [(383, tile)]
        factors := ⟨1000, 2000, 1000, 1000⟩, schedule := [⟨0, 7, 0, 0⟩, ⟨1439, 7, 1, 0⟩] }
    let photo := checkedTile (.photo (some 20) 0 0) none
    let record : PhotoRec := ⟨.ready, 512, 512, none, [], 512, .done, 0⟩
    (checking b).frame = some frame0 ∧ ScheduleInRange (checking b).tables.staged.schedule ∧
    ScheduleInRange (checking { b with schedule := [] }).tables.staged.schedule ∧
    b.tiles = [] ++ (383, tile) :: [] ∧
    ((∃ e ∈ b.schedule, e.page = 383 / 48 ∧ e.column = 0) ∧ ∃ e ∈ b.schedule, e.page = 383 / 48 ∧ e.column = 1) ∧
    (tile.body = .price style ∧ tile.item = some 12 ∧ tget (priceCache b 0) 12 = some (.priced 549 [5, 10, 4, 9]) ∧
      tget (priceCache b 1) 12 = some (.overflow 1999998)) ∧
    (frame0.snap.settings.vh = 1080 ∧ 7 < 8 ∧ 0 < frame0.snap.settings.vh) ∧
    (tget (checking b).photos.directory 20 = some record ∧ pixelsAsked photo 0 0 record 1920 1080 0 = 512 ∧
      pixelsAsked photo 0 0 record 1920 1080 1 = 0 ∧ 6 * 512 ≤ 3072 ∧ 3072 < 7 * 512) := by
  refine ⟨rfl, by unfold ScheduleInRange; decide +kernel, by unfold ScheduleInRange; decide +kernel, rfl, by decide +kernel,
    by decide +kernel, by decide +kernel, by decide +kernel⟩

/-- A granted first tile and a degraded second one, before a third that still fits. -/
theorem witness_LineGrantsStayWithinTheBudget :
    let tile (id w : Nat) : TileEntry :=
      frameTile { snapshotOf State.reset with photos := [(id, .ready)] } id
        ⟨.photo (some id) 0 0, 0, 0, w, 1, 0, none, none, 255, .always, .keep, 0⟩
    let photo : PhotoRec := ⟨.ready, 512, 512, none, [], 512, .done, 0⟩
    (grantTiles [(1, photo), (2, photo), (3, photo)] 0 600 [tile 1 512, tile 2 400, tile 3 88]).1 =
      [(tile 1 512, false)] ++ (tile 2 400, true) :: [(tile 3 88, false)] ∧
    ((tile 1 512).clip = clipRect (tile 1 512).tile 1920 1080 ∧ (tile 1 512).shown = true ∧
      (tile 1 512).blinkVisible = true ∧ (tile 1 512).content = .photo 1 ∧
      (tile 1 512).tile.body = .photo (some 1) 0 0 ∧ tget [(1, photo)] 1 = some photo ∧ tget [(2, photo)] 1 = none) ∧
    ({ tile 1 512 with shown := false }.shown = false ∧ { tile 1 512 with content := .none }.content ≠ .photo 1) := by
  decide +kernel

end Sys2Proof.Tests
end

section
/-! The item records and the stock map: ITEM_PUT (R8) and STOCK (R24) are settled here. -/

namespace Sys2Proof.Machine

/-! ### ITEM_PUT (R8) -/

section
variable {p : List Byte} {s : State}

/-- The item record of a payload that R8 does not refuse. -/
def itemOf (p : List Byte) : ItemRec := ⟨bodyOf p, if u8 p 0x23 = 1 then some (u8 p 0x24) else none⟩

theorem carryItemPut_refused (hl : p.length = 37) (ht : s.tables.pendingTake = none) (hr : ItemRefused p) :
    carryItemPut p s = ⟨.outOfRange, [], s⟩ := by
  rw [carryItemPut, stagedEdit_eq _ _ _ (by simpa using hl) ht, parseItem_none p hr]
  rfl

theorem carryItemPut_placed (hl : p.length = 37) (ht : s.tables.pendingTake = none) (hr : ¬ ItemRefused p) :
    carryItemPut p s =
      ⟨.ok, [], staging s
        { s.tables.staged with items := tput s.tables.staged.items (u16 p 0) (itemOf p) }⟩ := by
  rw [carryItemPut, stagedEdit_eq _ _ _ (by simpa using hl) ht, parseItem_some p hr]
  rfl

/-- A SIMPLE record holds the four price positions of its payload, and nothing of its component slots (R8). -/
theorem bodyOf_simple (h : u8 p 2 = 0) :
    ∃ prices, bodyOf p = .simple prices ∧
      ∀ c, c < 4 → columnGet prices c = if u8 p (3 + 4 * c) = 1 then some (u24 p (4 + 4 * c)) else none := by
  refine ⟨_, if_pos h, fun c hc => ?_⟩
  obtain rfl | rfl | rfl | rfl : c = 0 ∨ c = 1 ∨ c = 2 ∨ c = 3 := by omega
  all_goals rfl

/-- A COMBO record holds the counted component slots and the discount of its payload, and nothing of its price positions
(R8). -/
theorem bodyOf_combo (h : u8 p 2 = 1) :
    ∃ components, bodyOf p = .combo components (u24 p 0x20) ∧ components.length = u8 p 0x13 ∧
      ∀ n, n < u8 p 0x13 → components[n]? = some ⟨u16 p (0x14 + 3 * n), u8 p (0x16 + 3 * n)⟩ :=
  ⟨_, if_neg (by omega), by simp, fun n hn => by simp [hn]⟩

end

/-! ### STOCK (R24) -/

/-- An entry stands at the value of the last pair that names it. -/
theorem writePairs_last {α : Type} {l : List (Nat × α)} {t : List α} {n id : Nat} {a : α} (hid : id < t.length)
    (hn : l[n]? = some (id, a)) (hlast : ∀ m e, n < m → l[m]? = some e → e.1 ≠ id) :
    (writePairs l t)[id]? = some a := by
  induction l generalizing t n with
  | nil => simp at hn
  | cons e l ih =>
    cases n with
    | zero =>
      obtain rfl : e = (id, a) := by simpa using hn
      have hrest : ∀ e ∈ l, e.1 ≠ id := fun e he => by
        obtain ⟨m, hm⟩ := List.mem_iff_getElem?.1 he
        exact hlast (m + 1) e m.succ_pos (by simpa using hm)
      rw [writePairs, writePairs_other _ _ _ hrest, List.getElem?_set_self hid]
    | succ n =>
      exact ih (by simpa using hid) (by simpa using hn)
        fun m e hm he => hlast (m + 1) e (Nat.succ_lt_succ hm) (by simpa using he)

section
variable {p : List Byte} {n : Nat}

theorem pairsOf_getElem? (hn : n < u8 p 0) :
    (pairsOf p)[n]? = some (u16 p (1 + 3 * n), if u8 p (3 + 3 * n) = 0 then .available else .soldOut) := by
  simp [pairsOf, hn]

theorem lt_of_pairsOf_getElem? {e : Nat × Stock} (he : (pairsOf p)[n]? = some e) : n < u8 p 0 := by
  have := (List.getElem?_eq_some_iff.1 he).1
  simpa [pairsOf] using this

/-- The id of a payload's last pair for it ends at that pair's state. -/
theorem writePairs_pairsOf_last {t : List Stock} (hid : u16 p (1 + 3 * n) < t.length) (hn : n < u8 p 0)
    (hlast : ∀ m, n < m → m < u8 p 0 → u16 p (1 + 3 * m) ≠ u16 p (1 + 3 * n)) :
    (writePairs (pairsOf p) t)[u16 p (1 + 3 * n)]? = some (if u8 p (3 + 3 * n) = 0 then .available else .soldOut) := by
  refine writePairs_last hid (pairsOf_getElem? hn) fun m e hm he => ?_
  have hm' := lt_of_pairsOf_getElem? he
  rw [pairsOf_getElem? hm', Option.some.injEq] at he
  subst he
  exact hlast m hm hm'

/-- An id that no pair of a payload names keeps its state. -/
theorem writePairs_pairsOf_other {t : List Stock} {id : Nat} (h : ∀ n, n < u8 p 0 → u16 p (1 + 3 * n) ≠ id) :
    (writePairs (pairsOf p) t)[id]? = t[id]? := by
  refine writePairs_other _ _ _ fun e he => ?_
  obtain ⟨n, hn, rfl⟩ := List.mem_map.1 he
  exact h n (List.mem_range.1 hn)

end

/-- What STOCK answers: its two refusals in their order, or the stock map with the payload's pairs written (R24). -/
theorem carryStock_eq (p : List Byte) (s : State) :
    carryStock p s =
      if p = [] ∨ p.length ≠ 1 + 3 * u8 p 0 then ⟨.badLength, [], s⟩
      else if u8 p 0 = 0 ∨ 48 < u8 p 0 ∨ ∃ n, n < u8 p 0 ∧ (511 < u16 p (1 + 3 * n) ∨ 1 < u8 p (3 + 3 * n)) then
        ⟨.outOfRange, [], s⟩
      else ⟨.ok, [], { s with tables := { s.tables with stock := writePairs (pairsOf p) s.tables.stock } }⟩ := by
  simp only [carryStock, List.length_eq_zero_iff]
  refine if_congr Iff.rfl rfl ?_
  by_cases hr : u8 p 0 = 0 ∨ 48 < u8 p 0 ∨ ∃ n, n < u8 p 0 ∧ (511 < u16 p (1 + 3 * n) ∨ 1 < u8 p (3 + 3 * n))
  · rw [parseStock_none p hr, if_pos hr]; rfl
  · rw [parseStock_some p hr, if_neg hr]; rfl

/-! ### The statements -/

/-- Settles O16: past its length and with no take pending, ITEM_PUT is what its reader answers for the payload. -/
theorem itemPutPlacesOrRefusesTheRecord : Obligations.ItemPutPlacesOrRefusesTheRecord := by
  intro s h p hT hl ht
  refine ⟨fun hr => ?_, fun hr => ⟨itemOf p, ?placed, ?same, ?others, rfl, bodyOf_simple, bodyOf_combo⟩⟩
  · rw [execItemPut_taken hT, carryItemPut_refused (s := s.begin) hl ht hr]
  case placed => rw [execItemPut_taken hT, carryItemPut_placed (s := s.begin) hl ht hr]; rfl
  case same => rw [tget_tput, if_pos rfl]
  case others => exact fun id hid => by rw [tget_tput, if_neg hid]

/-- Settles O22, by the law that the last pair written to an entry decides it. -/
theorem stockAppliesItsPairsInOrder : Obligations.StockAppliesItsPairsInOrder := by
  intro s h p hT hsize
  refine ⟨writePairs (pairsOf p) s.tables.stock, ?answer, ?size, fun id hid => ⟨?named, writePairs_pairsOf_other⟩⟩
  case answer => rw [execStock_taken hT, carryStock_eq]; rfl
  case size => rw [writePairs_length, hsize]
  case named =>
    rintro n hn rfl hlast -
    exact writePairs_pairsOf_last (by rwa [hsize]) hn hlast

end Sys2Proof.Machine
end

section
/-! The staged bank as a whole and the pending take: STAGE_COPY (R28), AUDIT (R30), TAKE (R40) and TAKE_CANCEL (R46) are settled
here, each by what its carry definition answers. -/

namespace Sys2Proof.Machine

variable {s : State} {f : Frame} {p : List Byte}

theorem frameSettings_eq (hf : s.frame = some f) : frameSettings s = f.snap.settings := by
  rw [frameSettings, hf]

/-! ### STAGE_COPY and AUDIT (R28, R30) -/

/-- The check an audit begins with (R30). -/
theorem nextCheck_one (m : AuditMask) :
    nextCheck m 1 =
      if m.c1 then some 1 else if m.c2 then some 2 else if m.c3 then some 3 else if m.c4 then some 4
      else if m.c5 then some 5 else none := by
  obtain ⟨c1, c2, c3, c4, c5⟩ := m
  revert c1 c2 c3 c4 c5
  decide

theorem carryStageCopy_eq (p : List Byte) (s : State) :
    carryStageCopy p s =
      if p ≠ [] then ⟨.badLength, [], s⟩
      else if s.tables.pendingTake.isSome then ⟨.takePending, [], s⟩
      else ⟨.ok, [],
        { s with
          tables := { s.tables with staged := s.tables.live, stagedState := .clean }
          audit := afterAbort s .copied }⟩ := by
  simp only [carryStageCopy, abortAudit_eq, ne_eq, List.length_eq_zero_iff]
  rfl

theorem carryAudit_eq (p : List Byte) (hf : s.frame = some f) :
    carryAudit p s =
      if p ≠ [] then ⟨.badLength, [], s⟩
      else if s.tables.pendingTake.isSome then ⟨.takePending, [], s⟩
      else if s.tables.stagedState = .auditing then ⟨.busy, [], s⟩
      else ⟨.ok, [],
        { s with
          tables := { s.tables with stagedState := .auditing }
          audit :=
            { s.audit with progress := some ⟨f.snap.settings.mask, nextCheck f.snap.settings.mask 1, false⟩ } }⟩ := by
  simp only [carryAudit, maskInEffect, frameSettings_eq hf, ne_eq, List.length_eq_zero_iff]
  rfl

/-- Settles O20: both commands are taken on the state they find, and the settings in effect are those of the snapshot. -/
theorem stageCopyAndAuditSetTheStagedState : Obligations.StageCopyAndAuditSetTheStagedState := by
  refine fun s f h p hf => ⟨fun hT => ?copy, fun hT => ?audit⟩
  case copy =>
    rw [execStageCopy_taken hT, carryStageCopy_eq]
    rfl
  case audit =>
    rw [execAudit_taken hT, carryAudit_eq (s := s.begin) p hf, nextCheck_one]
    rfl

/-! ### TAKE and TAKE_CANCEL (R39, R40, R46) -/

/-- Modes above 1 name no target (R40). -/
theorem takeTarget_none (number : FrameNo) (hm : 1 < u8 p 0) : takeTarget p number = none := by
  unfold takeTarget
  split
  · omega
  · omega
  · rfl

/-- Mode AT names the frame given, mode NEXT the one after the frame in progress (R40). -/
theorem takeTarget_some (number : FrameNo) (hm : ¬ 1 < u8 p 0) :
    takeTarget p number = some (if u8 p 0 = 0 then BitVec.ofNat 16 (u16 p 1) else number + 1) := by
  obtain h | h : u8 p 0 = 0 ∨ u8 p 0 = 1 := by omega
  all_goals simp [takeTarget, h]

theorem takeDistance_eq (target number : FrameNo) :
    takeDistance target number = (target.toNat + 65536 - number.toNat) % 65536 := by
  rw [takeDistance, BitVec.toNat_sub]
  omega

/-- An accepted TAKE leaves a running audit aborted, and DIRTY in its place (R39). -/
theorem takeAborts_eq (s : State) :
    takeAborts s =
      { s with
        tables :=
          { s.tables with stagedState := if s.tables.stagedState = .auditing then .dirty else s.tables.stagedState }
        audit := afterAbort s .taken } := by
  unfold takeAborts afterAbort
  split <;> rfl

/-- What TAKE answers once its mode has named a target (R40). -/
theorem carryTake_targeted {target : FrameNo} (hf : s.frame = some f) (hl : p.length = 3)
    (ht : takeTarget p s.timing.number = some target) :
    carryTake p s =
      if s.timing.link = .search ∨ s.timing.link = .standalone then ⟨.wrongState, [], s⟩
      else if s.tables.pendingTake.isSome then ⟨.takePending, [], s⟩
      else if f.snap.settings.policy = .strict ∧ s.tables.stagedState ≠ .passed then ⟨.notAudited, [], s⟩
      else if takeDistance target s.timing.number = 0 ∨ 4096 < takeDistance target s.timing.number then
        ⟨.takeWindow, [], s⟩
      else ⟨.ok, put16 target.toNat,
        { s with
          tables :=
            { s.tables with
              pendingTake := some target
              stagedState := if s.tables.stagedState = .auditing then .dirty else s.tables.stagedState }
          audit := afterAbort s .taken }⟩ := by
  rw [carryTake, if_neg (not_not.2 hl), ht]
  simp only [policyInEffect, frameSettings_eq hf, takeAborts_eq]
  rfl

theorem carryTakeCancel_eq (p : List Byte) (s : State) :
    carryTakeCancel p s =
      if p ≠ [] then ⟨.badLength, [], s⟩
      else if s.tables.pendingTake = none then ⟨.wrongState, [], s⟩
      else ⟨.ok, [], { s with tables := { s.tables with pendingTake := none } }⟩ := by
  simp only [carryTakeCancel, ne_eq, List.length_eq_zero_iff, Option.isNone_iff_eq_none]
  rfl

/-- Settles O21, by TAKE's length test, then its mode test, then what it answers for the target its mode names. -/
theorem takeAndTakeCancelSetAndClearThePendingTake : Obligations.TakeAndTakeCancelSetAndClearThePendingTake := by
  refine ⟨fun s f h p hT hf => ?take, fun s h p hT => ?cancel⟩
  case take =>
    intro number target distance
    rw [execTake_taken hT]
    by_cases hl : p.length = 3
    · rw [if_neg (not_not.2 hl)]
      by_cases hm : 1 < u8 p 0
      · rw [if_pos hm, carryTake, if_neg (not_not.2 hl), takeTarget_none _ hm]
        rfl
      · rw [if_neg hm, carryTake_targeted (s := s.begin) hf hl (takeTarget_some _ hm), takeDistance_eq]
        rfl
    · rw [if_pos hl, carryTake, if_pos hl]
      rfl
  case cancel =>
    rw [execTakeCancel_taken hT, carryTakeCancel_eq]
    rfl

end Sys2Proof.Machine
end

section
/-! Stage D of the price arithmetic (R71, R72) and the glyph sequence of a price (R74–R77) are settled here. -/

namespace Sys2Proof.Machine

/-! ### Stage D (R71, R72) -/

section
variable {f : PriceFormat} (v : Nat)

theorem roundStep_exact (hr : f.rounding = .exact) : roundStep f v = v := by simp [roundStep, hr]

theorem roundStep_nearest (hr : f.rounding = .nearest) : roundStep f v = (v + f.step / 2) / f.step * f.step := by
  simp [roundStep, hr]

theorem roundStep_up (hr : f.rounding = .up) : roundStep f v = v ⌈/⌉ f.step * f.step := by
  simp [roundStep, hr, Nat.ceilDiv_eq_add_pred_div]

/-- One formula for both branches of R72: at v ≤ E the difference v − E is 0, and the result is E. -/
theorem roundStep_ending (hr : f.rounding = .ending) :
    roundStep f v = (v - f.ending) ⌈/⌉ f.step * f.step + f.ending := by
  simp only [roundStep, hr]
  split
  next h => simp [Nat.sub_eq_zero_of_le h]
  next => rw [Nat.ceilDiv_eq_add_pred_div]

end

/-- The rounded-up quotient gives the smallest multiple not below a value: the idea of UP, and of ENDING past its ending. -/
theorem isLeast_ceilDiv_mul {s : Nat} (v : Nat) (hs : 0 < s) : IsLeast {m | s ∣ m ∧ v ≤ m} (v ⌈/⌉ s * s) := by
  refine ⟨⟨Nat.dvd_mul_left _ _, ?_⟩, ?_⟩
  · rw [Nat.mul_comm]
    exact le_smul_ceilDiv hs
  · rintro _ ⟨⟨k, rfl⟩, hk⟩
    rw [Nat.mul_comm]
    exact Nat.mul_le_mul_left s ((ceilDiv_le_iff_le_mul hs).2 hk)

/-- The multiple that NEAREST names lies within half a step, and a value halfway goes up (R71). -/
theorem nearest_mul_bounds {s : Nat} (v : Nat) (hs : 0 < s) :
    2 * ((v + s / 2) / s * s) ≤ 2 * v + s ∧ 2 * v < 2 * ((v + s / 2) / s * s) + s := by
  have hdiv := Nat.div_add_mod' (v + s / 2) s
  have hmod := Nat.mod_lt (v + s / 2) hs
  omega

/-! ### Decimal digits (R74, R76) -/

section
variable {fuel v : Nat}

theorem decimalDigits_of_lt_ten (h : v < 10) : decimalDigits fuel v = [v] := by
  cases fuel with
  | zero => rw [decimalDigits, Nat.mod_eq_of_lt h]
  | succ fuel => rw [decimalDigits, if_pos h]

/-- Ties the model's digits to the library's, which stand least significant first and are none for 0. -/
theorem decimalDigits_eq_reverse_digits (hv : v ≠ 0) (h : v < 10 ^ (fuel + 1)) :
    decimalDigits fuel v = (Nat.digits 10 v).reverse := by
  induction fuel generalizing v with
  | zero => rw [decimalDigits_of_lt_ten (by simpa using h), Nat.digits_of_lt 10 v hv (by simpa using h)]; rfl
  | succ fuel ih =>
    by_cases hten : v < 10
    · rw [decimalDigits_of_lt_ten hten, Nat.digits_of_lt 10 v hv hten]; rfl
    · have hrest : v / 10 < 10 ^ (fuel + 1) := Nat.div_lt_of_lt_mul (by rwa [← Nat.pow_succ'])
      rw [decimalDigits, if_neg hten, ih (by omega) hrest,
        Nat.digits_def' (by decide) (Nat.pos_of_ne_zero hv), List.reverse_cons]

theorem decimalDigits_le_nine (h : v < 10 ^ (fuel + 1)) : ∀ d ∈ decimalDigits fuel v, d ≤ 9 := by
  intro d hd
  rcases eq_or_ne v 0 with rfl | hv
  · rw [decimalDigits_of_lt_ten (by decide)] at hd
    simp_all
  · rw [decimalDigits_eq_reverse_digits hv h, List.mem_reverse] at hd
    exact Nat.le_of_lt_succ (Nat.digits_lt_base (by decide) hd)

/-- Only the number 0 is written with a leading 0. -/
theorem decimalDigits_leading_zero (h : v < 10 ^ (fuel + 1)) (hz : (decimalDigits fuel v).head? = some 0) :
    decimalDigits fuel v = [0] := by
  rcases eq_or_ne v 0 with rfl | hv
  · exact decimalDigits_of_lt_ten (by decide)
  · rw [decimalDigits_eq_reverse_digits hv h, List.head?_reverse,
      List.getLast?_eq_getLast_of_ne_nil (Nat.digits_ne_nil_iff_ne_zero.2 hv), Option.some.injEq] at hz
    exact absurd hz (Nat.getLast_digit_ne_zero 10 hv)

theorem decimalDigits_value (h : v < 10 ^ (fuel + 1)) :
    (decimalDigits fuel v).foldl (fun n d => 10 * n + d) 0 = v := by
  rcases eq_or_ne v 0 with rfl | hv
  · rw [decimalDigits_of_lt_ten (by decide)]; rfl
  · calc (decimalDigits fuel v).foldl (fun n d => 10 * n + d) 0
      _ = (Nat.digits 10 v).foldr (fun d n => d + 10 * n) 0 := by
        simp only [decimalDigits_eq_reverse_digits hv h, List.foldl_reverse, Nat.add_comm]
      _ = Nat.ofDigits 10 (Nat.digits 10 v) := (Nat.ofDigits_eq_foldr 10 _).symm
      _ = v := Nat.ofDigits_digits 10 v

theorem decimalDigits_length_pos : 1 ≤ (decimalDigits fuel v).length := by
  cases fuel with
  | zero => simp [decimalDigits]
  | succ fuel => rw [decimalDigits]; split <;> simp

theorem decimalDigits_length_le {k : Nat} (hk : k ≤ fuel) (h : v < 10 ^ (k + 1)) :
    (decimalDigits fuel v).length ≤ k + 1 := by
  rcases eq_or_ne v 0 with rfl | hv
  · simp [decimalDigits_of_lt_ten]
  · have hfuel : v < 10 ^ (fuel + 1) := h.trans_le (Nat.pow_le_pow_right (by decide) (by omega))
    rw [decimalDigits_eq_reverse_digits hv hfuel, List.length_reverse]
    exact (Nat.digits_length_le_iff (by decide) v).2 h

end

/-! ### The glyph sequence (R74–R77) -/

/-- The number that the digits before a decimal mark write: the value, or its whole part where two digits are minor. -/
def wholePart (f : PriceFormat) (v : Nat) : Nat := if f.minor = .two then v / 100 else v

section
variable (f : PriceFormat) {v : Nat}

/-- The decimal mark and the two minor digits follow the whole part where they are printed, and nothing does elsewhere. -/
theorem digitGlyphs_eq (v : Nat) :
    digitGlyphs f v =
      if f.minor = .two ∧ ¬ (f.shortForm = true ∧ v % 100 = 0) then
        decimalDigits 5 (wholePart f v) ++ [10, v / 10 % 10, v % 10]
      else decimalDigits 5 (wholePart f v) := by
  cases hm : f.minor with
  | zero => simp [digitGlyphs, wholePart, hm]
  | two =>
    have hminor : v % 100 / 10 = v / 10 % 10 := by omega
    simp only [digitGlyphs, wholePart, hm, hminor, decimalMark]
    by_cases hshort : f.shortForm = true ∧ v % 100 = 0 <;> simp [hshort]

theorem wholePart_lt (h : v ≤ 999999) : wholePart f v < 10 ^ 6 := by
  unfold wholePart
  split <;> omega

/-- The digits of a value within the limit, with its decimal mark, leave room for one symbol in 8 glyphs. -/
theorem digitGlyphs_length_bounds (h : v ≤ 999999) : 1 ≤ (digitGlyphs f v).length ∧ (digitGlyphs f v).length ≤ 7 := by
  have hpos : 1 ≤ (decimalDigits 5 (wholePart f v)).length := decimalDigits_length_pos
  rw [digitGlyphs_eq]
  split
  next htwo =>
    have hle : (decimalDigits 5 (wholePart f v)).length ≤ 4 :=
      decimalDigits_length_le (k := 3) (by decide) (by rw [wholePart, if_pos htwo.1]; omega)
    simp only [List.length_append, List.length_cons, List.length_nil]
    omega
  next =>
    have hle : (decimalDigits 5 (wholePart f v)).length ≤ 6 :=
      decimalDigits_length_le (k := 5) (by decide) (wholePart_lt f h)
    omega

/-- The symbol stands on at most one side. -/
theorem glyphSequence_length (v : Nat) :
    (glyphSequence f v).length = (digitGlyphs f v).length + if f.symbol = .none then 0 else 1 := by
  cases hsym : f.symbol <;> simp [glyphSequence, hsym]

end

/-! ### The statement -/

/-- Settles O53: UP and ENDING by the smallest multiple that their rounded-up quotient gives, NEAREST by its bounds,
and the glyph sequence by the library's facts about decimal digits. -/
theorem pricesRoundAndPrintAsTheFormatSays : Obligations.PricesRoundAndPrintAsTheFormatSays := by
  refine ⟨fun f v hs _ => ⟨roundStep_exact v, fun hr => ?up, fun hr => ?nearest, fun hr => ?ending⟩,
    fun f v hv => ⟨decimalDigits 5 (wholePart f v), ?printed⟩⟩
  case up =>
    rw [roundStep_up v hr]
    obtain ⟨⟨hdvd, hle⟩, hleast⟩ := isLeast_ceilDiv_mul v hs
    exact ⟨hdvd, hle, fun m hm hv => hleast ⟨hm, hv⟩⟩
  case nearest =>
    rw [roundStep_nearest v hr]
    exact ⟨Nat.dvd_mul_left _ _, nearest_mul_bounds v hs⟩
  case ending =>
    rw [roundStep_ending v hr]
    obtain ⟨⟨-, hle⟩, hleast⟩ := isLeast_ceilDiv_mul (v - f.ending) hs
    refine ⟨⟨_, rfl⟩, by omega, fun k hk => ?_⟩
    exact Nat.add_le_add_right (hleast ⟨Nat.dvd_mul_left _ k, by omega⟩) _
  case printed =>
    have hwhole := wholePart_lt f hv
    obtain ⟨hpos, hle⟩ := digitGlyphs_length_bounds f hv
    refine ⟨decimalDigits_le_nine hwhole, decimalDigits_length_pos, decimalDigits_leading_zero hwhole, ?_,
      decimalDigits_value hwhole, ?_, ?_⟩
    · rw [glyphSequence, digitGlyphs_eq]; rfl
    · rw [glyphSequence_length]; omega
    · rw [glyphSequence_length]; split <;> omega

end Sys2Proof.Machine
end

section
/-! The through port: it repeats what a row brings on the input stream and nothing else (R168). Here every operation of the rows is
shown to leave the port as it finds it, so that what it carries is what the row itself has repeated. -/

namespace Sys2Proof.Machine

variable (s : State)

/-! ### The beginning of a row, the Output Stage and the frame -/

@[simp] theorem noOutputs_through : noOutputs.through = [] := rfl

@[simp] theorem entered_through (i : Instr) : (entered s i).out.through = [] := rfl

@[simp] theorem State.drive_through (x : PanelSymbol) : (s.drive x).out.through = s.out.through := by
  unfold State.drive
  split <;> rfl

@[simp] theorem composeLine_through (n : Nat) (base : Nat → Color) :
    (composeLine s n base).out.through = s.out.through := by
  unfold composeLine
  split <;> simp

@[simp] theorem composeFillLine_through : (composeFillLine s).out.through = s.out.through := by
  unfold composeFillLine
  (repeat' split) <;> simp

@[simp] theorem openFrame_through (k : FrameKind) : (openFrame s k).out.through = s.out.through := by
  cases k <;> simp [openFrame]

@[simp] theorem frameStart_through (c : FrameCause) (b : Bool) : (frameStart s c b).out.through = s.out.through := by
  simp [frameStart]

/-! ### Header lines, active lines and stops -/

@[simp] theorem missFrame_through (c : FrameCause) : (missFrame s c).out.through = s.out.through := by
  unfold missFrame
  (repeat' split) <;> simp

@[simp] theorem goodHeader_through (h : Header) : (goodHeader s h).out.through = s.out.through := by
  unfold goodHeader
  (repeat' split) <;> simp

@[simp] theorem badHeader_through : (badHeader s).out.through = s.out.through := by
  unfold badHeader
  split <;> simp

@[simp] theorem headerEnd_through (l : List Byte) : (headerEnd s l).out.through = s.out.through := by
  unfold headerEnd
  split <;> simp

@[simp] theorem stopInput_through : (stopInput s).out.through = s.out.through := by
  unfold stopInput
  split <;> simp

@[simp] theorem feedLine_through (f : Frame) (a : Nat) (l : List Color) :
    (feedLine s f a l).out.through = s.out.through := by
  unfold feedLine
  split <;> simp

@[simp] theorem activeArrives_through (l : List Byte) : (activeArrives s l).out.through = s.out.through := by
  unfold activeArrives
  (repeat' split) <;> simp

@[simp] theorem localLine_through : (localLine s).out.through = s.out.through := by
  unfold localLine
  split <;> simp

/-! ### Packets -/

/-- No command carries anything on a port, a reset included (R192). -/
theorem Carried.out {s t : State} (h : Carried s t) : t.out = s.out := by
  cases h
  case nodeResetTables => simp only [resetTables, State.raiseIf_out]
  case nodeResetFull => simp only [resetFull, State.raiseIf_out, resetBlocks]
  all_goals rfl

@[simp] theorem takePacket_out (k : Packet) : (takePacket s k).out = s.out := by
  have h := (carryOut_carried k.code k.payload s).out
  unfold takePacket
  split <;> exact h

@[simp] theorem process_out : s.process.out = s.out :=
  takePackets_induct (P := fun t => t.out = s.out)
    (fun t _ k rest ht _ _ _ => (takePacket_out { t with intake := rest } k).trans ht) _ s rfl

@[simp] theorem packetArrives_out (k : Packet) : (packetArrives s k).out = s.out := by
  unfold packetArrives
  split <;> simp

@[simp] theorem packetBytes_out (bs : List Byte) : (packetBytes s bs).out = s.out := by
  unfold packetBytes
  split <;> simp

/-! ### Lines -/

@[simp] theorem laterLine_through (a : Nat) (l : List Byte) : (laterLine s a l).out.through = s.out.through := by
  unfold laterLine
  (repeat' split) <;> simp

@[simp] theorem readLine_through (l : List Byte) : (readLine s l).out.through = s.out.through := by
  unfold readLine
  split <;> simp [headerArrives]

/-- A line that arrives is repeated, also while RESETn is asserted (R168, R193). -/
@[simp] theorem lineArrives_through (l : List Byte) :
    (lineArrives s l).out.through = s.out.through ++ [.line l] := by
  unfold lineArrives
  simp only
  split <;> simp

@[simp] theorem cutLine_through (c : Option (List Byte)) : (cutLine s c).out.through = s.out.through := by
  unfold cutLine
  split
  · simp [headerArrives]
  · unfold cutPacket
    (repeat' split) <;> simp
  · rfl

@[simp] theorem State.repeatCut_through (c : Option (List Byte)) :
    (s.repeatCut c).out.through = s.out.through ++ (c.map StreamSymbol.line).toList := by
  cases c <;> simp [State.repeatCut]

/-! ### The return lane and RESETn -/

@[simp] theorem acceptForwarded_through : (acceptForwarded s).out.through = s.out.through := by
  unfold acceptForwarded
  split <;> rfl

@[simp] theorem grantSlot_through : (grantSlot s).out.through = s.out.through := by
  unfold grantSlot
  split <;> simp

@[simp] theorem finishTransfer_through : (finishTransfer s).out.through = s.out.through := by
  unfold finishTransfer
  split <;> simp

@[simp] theorem loseRecord_through : (loseRecord s).out.through = s.out.through := rfl

@[simp] theorem receiveRecord_through (bs : List Byte) : (receiveRecord s bs).out.through = s.out.through := by
  unfold receiveRecord
  split
  · simp
  · simp only
    split <;> simp

@[simp] theorem holdReset_through : (holdReset s).out.through = s.out.through := rfl

@[simp] theorem releaseReset_through : (releaseReset s).out.through = s.out.through := rfl

/-! ### The symbols a row brings -/

/-- A packet row acts behind the input port: the port's own rows bring the lines that carry packets (assumption 1). -/
theorem streamOf_packetOf {i : Instr} {k : Packet} (hi : packetOf i = some k) : streamOf i = [] := by
  cases i <;> cases hi <;> rfl

@[simp] theorem streamOf_frameStartMark (c : Option (List Byte)) (p : Pins) :
    streamOf (.frameStartMark c p) = (c.map StreamSymbol.line).toList ++ [.mark] := by
  cases c <;> rfl

@[simp] theorem streamOf_inputSignalLoss (c : Option (List Byte)) (p : Pins) :
    streamOf (.inputSignalLoss c p) = (c.map StreamSymbol.line).toList := by
  cases c <;> rfl

@[simp] theorem streamOf_lineGapTimeout (c : Option (List Byte)) (p : Pins) :
    streamOf (.lineGapTimeout c p) = (c.map StreamSymbol.line).toList := by
  cases c <;> rfl

/-- A packet row carries nothing on the port, whether its packet is taken, waits or is not accepted. -/
theorem exec_packetOf_through {i : Instr} {k : Packet} {s t : State} (hi : packetOf i = some k)
    (h : exec i s = .next t) : t.out.through = [] := by
  rw [exec_packetOf hi] at h
  cases h
  split <;> simp

/-- Settles O36: a row repeats the symbols it brings before its guards are tested, so in every state, and nothing it then does
touches the port. -/
theorem throughPortRepeatsTheStream : Obligations.ThroughPortRepeatsTheStream := by
  intro i s t h
  cases hi : packetOf i with
  | some k => rw [streamOf_packetOf hi, exec_packetOf_through hi h]
  | none =>
    cases i <;> simp only [packetOf, reduceCtorEq] at hi
    -- whole lines
    case headerLineEnd | packetLine | activeLine =>
      cases h
      simp [streamOf]
    -- marks and lines cut short
    case frameStartMark | inputSignalLoss | lineGapTimeout =>
      simp only [exec, execFrameStartMark, execInputSignalLoss, execLineGapTimeout] at h
      split at h <;> cases h <;> simp
    -- the timers, which bring nothing
    case headerTimerExpires | gapTimerExpires | localFrameTimerExpires | clockSecondTick =>
      simp only [exec, execHeaderTimerExpires, execGapTimerExpires, execLocalFrameTimerExpires,
        execClockSecondTick] at h
      split at h <;> cases h <;> simp [streamOf]
    case localLineTimer =>
      cases h
      simp [streamOf]
    -- the return lane and RESETn, which bring nothing
    case upstreamTransferStart | upstreamTransferDone | downstreamRecordReceived | downstreamRecordCutShort |
        resetnAssert | resetnRelease =>
      simp only [exec, execUpstreamTransferStart, execUpstreamTransferDone, execDownstreamRecordReceived,
        execDownstreamRecordCutShort, execResetnAssert, execResetnRelease] at h
      split at h <;> cases h <;> simp [streamOf]
    case upstreamTransferCut =>
      cases h
      simp [streamOf]

end Sys2Proof.Machine
end

section
/-! What every step keeps. A step is `exec` on the state with the rest of the queue, so an invariant is what `Keeps` asks of each
operation of the rows. -/

namespace Sys2Proof.Machine

/-! ### One step -/

theorem step_cons {s : State} {c : Instr} {rest : List Instr} (h : s.pending = c :: rest) :
    step s = exec c { s with pending := rest } := by
  simp only [step, h]

theorem step_idle {s : State} (h : s.pending = []) : step s = .next s := by
  simp only [step, h]

/-- A kept property that does not read the queue of commands is kept by every step. -/
theorem Keeps.step {P : State → Prop} (K : Keeps P) (hp : ∀ s l, P s → P { s with pending := l }) {s t : State} (h : P s)
    (he : step s = .next t) : P t := by
  cases hs : s.pending with
  | nil =>
    rw [step_idle hs] at he
    cases he
    exact h
  | cons c rest =>
    rw [step_cons hs] at he
    exact K.exec (hp s rest h) he

/-! ### What a taken packet leaves -/

/-- The command of a taken packet is carried out, and a record may join the tail of the reply queue, with the events cleared. -/
theorem takePacket_cases (s : State) (k : Packet) :
    ∃ t, Carried s t ∧
      ((answered s k = false ∧ takePacket s k = t) ∨
        ∃ r, answered s k = true ∧
          takePacket s k = { t with lane := { t.lane with queue := t.lane.queue ++ [r], events := noEvents } }) := by
  refine ⟨(carryOut k.code k.payload s).state, carryOut_carried .., ?_⟩
  unfold takePacket
  cases answered s k
  · exact .inl ⟨rfl, rfl⟩
  · exact .inr ⟨_, rfl, rfl⟩

/-- A taken packet keeps a property that every command keeps and that reads nothing of the return lane. -/
theorem takePacket_keeps {P : State → Prop} (hl : ∀ s lane, P s → P { s with lane := lane })
    (hc : ∀ s t, Carried s t → P s → P t) {s : State} (h : P s) (k : Packet) : P (takePacket s k) := by
  obtain ⟨t, hk, ⟨-, he⟩ | ⟨r, -, he⟩⟩ := takePacket_cases s k
  · exact he ▸ hc s t hk h
  · exact he ▸ hl t _ (hc s t hk h)

/-! ### The queues (R99, R171, R178) -/

theorem joinIntake_queue (s : State) (k : Packet) : (joinIntake s k).lane.queue = s.lane.queue := by
  unfold joinIntake
  split <;> rfl

theorem joinIntake_intake_le (s : State) (k : Packet) (h : s.intake.length ≤ Config.intakeCapacity) :
    (joinIntake s k).intake.length ≤ Config.intakeCapacity := by
  unfold joinIntake
  split
  · simpa using ‹_›
  · simpa using h

/-- No queue of `t` is longer than in `s`. -/
def QueuesNoLonger (s t : State) : Prop :=
  t.intake.length ≤ s.intake.length ∧ t.lane.queue.length ≤ s.lane.queue.length ∧
  t.capture.queue.length ≤ s.capture.queue.length

theorem QueuesNoLonger.bounded {s t : State} (h : QueuesNoLonger s t) (hs : QueuesBounded s) : QueuesBounded t :=
  ⟨h.1.trans hs.1, h.2.1.trans hs.2.1, h.2.2.trans hs.2.2⟩

/-- A command takes nothing into the intake queue or the reply queue, and a request only where the capture queue has room. -/
theorem Carried.queues {s t : State} (h : Carried s t) :
    t.intake.length ≤ s.intake.length ∧ t.lane.queue.length ≤ s.lane.queue.length ∧
    (t.capture.queue.length ≤ s.capture.queue.length ∨ t.capture.queue.length ≤ Config.captureCapacity) := by
  cases h with
  | photoDrop id r events hr => exact ⟨le_rfl, le_rfl, .inl (List.length_filter_le _ _)⟩
  | capture q hq _ => exact ⟨le_rfl, le_rfl, .inr (by simpa [Config.captureCapacity] using hq)⟩
  | glyphLoad i g q hq _ => exact ⟨le_rfl, le_rfl, .inr (by simpa [Config.captureCapacity] using hq)⟩
  | captureFlush => exact ⟨le_rfl, le_rfl, .inl (Nat.zero_le _)⟩
  | nodeResetTables => simp [resetTables, State.raiseIf_lane_queue]
  | nodeResetFull => simp [resetFull, State.raiseIf_lane_queue, resetBlocks, State.reset]
  | _ => exact ⟨le_rfl, le_rfl, .inl le_rfl⟩

theorem takePacket_queuesBounded {s : State} {k : Packet} (h : QueuesBounded s)
    (ha : answered s k = true → replyFull s = false) : QueuesBounded (takePacket s k) := by
  obtain ⟨hi, hl, hc⟩ := h
  obtain ⟨t, hk, hcase⟩ := takePacket_cases s k
  obtain ⟨hi', hl', hc'⟩ := hk.queues
  have hcap : t.capture.queue.length ≤ Config.captureCapacity := hc'.elim (fun h => h.trans hc) id
  obtain ⟨-, he⟩ | ⟨r, hans, he⟩ := hcase
  · exact he ▸ ⟨hi'.trans hi, hl'.trans hl, hcap⟩
  · have hfree := (replyFull_false_iff s).1 (ha hans)
    refine he ▸ ⟨hi'.trans hi, ?_, hcap⟩
    simp only [List.length_append, List.length_singleton, Config.replyCapacity]
    omega

theorem receiveRecord_queuesBounded {s : State} (h : QueuesBounded s) (bs : List Byte) :
    QueuesBounded (receiveRecord s bs) := by
  unfold receiveRecord
  split
  · exact h
  · simp only
    split
    · exact h
    · next hfull =>
      have hfree := (replyFull_false_iff _).1 (by simpa using hfull)
      refine ⟨h.1, ?_, h.2.2⟩
      simp only [acceptForwarded, List.length_append, List.length_singleton, Config.replyCapacity]
      exact hfree

/-- Every operation of the rows keeps the queues within their capacities. -/
theorem keeps_queuesBounded : Keeps QueuesBounded where
  ports _ _ _ h := h
  receiver _ _ h := h
  raise _ _ h := h
  join s k h := ⟨joinIntake_intake_le s k h.1, by rw [joinIntake_queue]; exact h.2.1, by simpa using h.2.2⟩
  take s k rest h hq ha := by
    refine takePacket_queuesBounded (s := { s with intake := rest }) ⟨?_, h.2⟩ ha
    have := h.1
    rw [hq, List.length_cons] at this
    exact (Nat.le_succ _).trans this
  header s l h := QueuesNoLonger.bounded ⟨by simp, by simp, (StoresKept.headerEnd s l).queue⟩ h
  headerTimer s h _ := QueuesNoLonger.bounded ⟨by simp, by simp, (StoresKept.missFrame s _).queue⟩ h
  localTimer s h _ := QueuesNoLonger.bounded ⟨by simp, by simp, (StoresKept.frameStart s _ _).queue⟩ h
  stop s h := QueuesNoLonger.bounded ⟨by simp, by simp, (StoresKept.stopInput s).queue⟩ h
  active s l h := QueuesNoLonger.bounded ⟨by simp, by simp, (StoresKept.activeArrives s l).queue⟩ h
  localLine s h := QueuesNoLonger.bounded ⟨by simp, by simp, by simp⟩ h
  gap _ h := h
  tick _ h := h
  hold _ _ h := h
  sending _ _ h := h
  freed s r rest g h hq := by
    have := h.2.1
    rw [hq, List.length_cons] at this
    exact ⟨h.1, (Nat.le_succ _).trans this, h.2.2⟩
  accept s r rest g h hq := by
    have hlen := h.2.1
    rw [hq, List.length_cons] at hlen
    unfold acceptForwarded
    split
    · exact ⟨h.1, (Nat.le_succ _).trans hlen, h.2.2⟩
    · exact ⟨h.1, by simpa [freedSlot] using hlen, h.2.2⟩
  receive s bs h := receiveRecord_queuesBounded h bs
  holdReset s _ := by simp [QueuesBounded, Machine.holdReset, resetBlocks, State.reset]
  releaseReset _ h := h

/-- Settles O3: every operation of the rows keeps the bounds (`keeps_queuesBounded`). -/
theorem stepKeepsQueueBounds : Obligations.StepKeepsQueueBounds :=
  fun _ _ => keeps_queuesBounded.step fun _ _ h => h

end Sys2Proof.Machine
end

section
/-! RESETn and the intake queue at rest. While RESETn is asserted no row but its release acts (R193); otherwise every row leaves the
Command Processor where it came to rest (R172, R174). -/

namespace Sys2Proof.Machine

/-! ### While RESETn is asserted (R193) -/

/-- What a row other than the release does while RESETn is asserted: it brings its symbols to the through port and its levels to
the pins, and the hold of the upstream neighbour to the lane. -/
def heldAfter (s : State) (i : Instr) : State :=
  { entered s i with
    out := { noOutputs with through := streamOf i }
    lane :=
      { s.lane with
        upstreamHold :=
          match i with
          | .upstreamTransferStart hold | .upstreamTransferCut hold => hold
          | _ => s.lane.upstreamHold } }

theorem heldAfter_held {s : State} (h : HeldInReset s) (i : Instr) : HeldInReset (heldAfter s i) := h

theorem inputRunning_noFrame {s : State} (h : s.frame = none) : inputRunning s = false := by
  simp [inputRunning, h]

theorem exec_held {s : State} (h : HeldInReset s) {i : Instr} (hi : ∀ pins, i ≠ .resetnRelease pins) :
    exec i s = .next (heldAfter s i) := by
  obtain ⟨hr, hf, hh, hl, hq, hs⟩ := h
  cases hk : packetOf i with
  | some k =>
    rw [exec_packetOf hk, hr, if_pos rfl]
    cases i <;> first | rfl | simp [packetOf] at hk
  | none =>
    have hb : s.begin.resetn = true := hr
    cases i <;> simp only [packetOf, reduceCtorEq] at hk
    case headerLineEnd l p | packetLine l p =>
      have hb : ((s.begin).latch p).resetn = true := hr
      simp only [exec, execHeaderLineEnd, execPacketLine, lineArrives, hb, if_true]
      rfl
    case activeLine l =>
      simp only [exec, execActiveLine, lineArrives, hb, if_true]
      rfl
    case frameStartMark c p | inputSignalLoss c p =>
      simp only [exec, execFrameStartMark, execInputSignalLoss, hr, if_true]
      cases c <;> rfl
    case lineGapTimeout c p =>
      simp only [exec, execLineGapTimeout, inputRunning_noFrame hf, Bool.false_eq_true, if_false]
      cases c <;> rfl
    case headerTimerExpires p =>
      simp only [exec, execHeaderTimerExpires, hh]
      rfl
    case gapTimerExpires =>
      simp only [exec, execGapTimerExpires, hh]
      rfl
    case localFrameTimerExpires p =>
      simp only [exec, execLocalFrameTimerExpires, hl]
      rfl
    case localLineTimer =>
      have hf' : s.begin.frame = none := hf
      simp only [exec, execLocalLineTimer, localLine, lineIsLocal, hf', Option.isSome_none, Bool.false_and,
        Bool.false_eq_true, if_false]
      rfl
    case clockSecondTick =>
      simp only [exec, execClockSecondTick, hr, if_true]
      rfl
    case upstreamTransferStart b =>
      simp only [exec, execUpstreamTransferStart, hq, List.isEmpty_nil, Bool.true_or, if_true]
      rfl
    case upstreamTransferDone p =>
      simp only [exec, execUpstreamTransferDone, hs, Bool.false_eq_true, if_false]
      rfl
    case downstreamRecordReceived bs =>
      simp only [exec, execDownstreamRecordReceived, holdsDownstream, hr, Bool.true_or, if_true]
      rfl
    case downstreamRecordCutShort =>
      simp only [exec, execDownstreamRecordCutShort, holdsDownstream, hr, Bool.true_or, if_true]
      rfl
    case resetnAssert =>
      simp only [exec, execResetnAssert, hr, if_true]
      rfl
    case resetnRelease p => exact absurd rfl (hi p)
    case upstreamTransferCut b =>
      simp only [exec, execUpstreamTransferCut, heldAfter, ← hs]
      rfl

/-- Settles O35: while RESETn is asserted every row but its release is `heldAfter`. -/
theorem heldNodeIgnoresEverything : Obligations.HeldNodeIgnoresEverything := by
  intro i s t h hi he
  rw [exec_held h hi] at he
  cases he
  exact ⟨heldAfter_held h i, rfl⟩

/-! ### The intake queue at rest (R171, R172, R174) -/

/-- RESETn is not asserted and the intake queue is at rest. -/
def AwakeAtRest (s : State) : Prop := s.resetn = false ∧ IntakeAtRest s

theorem answered_congr {s t : State} (ha : t.lane.address = s.lane.address) (k : Packet) : answered t k = answered s k := by
  unfold answered addressField
  rw [ha]

/-- An operation that takes no packet, begins no frame and empties no slot leaves the intake queue at rest. -/
theorem AwakeAtRest.congr {s t : State} (h : AwakeAtRest s) (hr : t.resetn = s.resetn) (hi : t.intake = s.intake)
    (hf : s.frame = none → t.frame = none) (ha : t.lane.address = s.lane.address)
    (hq : s.lane.queue.length ≤ t.lane.queue.length) : AwakeAtRest t := by
  obtain ⟨hs, hrest⟩ := h
  refine ⟨hr.trans hs, ?_⟩
  obtain hn | hn | ⟨k, rest, hk, hans, hl⟩ := hrest
  · exact .inl (hi.trans hn)
  · exact .inr (.inl (hf hn))
  · exact .inr (.inr ⟨k, rest, hi.trans hk, (answered_congr ha k).trans hans, hl.trans hq⟩)

theorem Carried.awake {s t : State} (h : Carried s t) (hs : s.resetn = false) : t.resetn = false := by
  cases h with
  | nodeResetTables => simpa [resetTables] using hs
  | nodeResetFull => simp [resetFull, resetBlocks, State.reset]
  | _ => exact hs

theorem process_awakeAtRest {s : State} (h : s.resetn = false) : AwakeAtRest s.process := by
  refine ⟨takePackets_induct (P := fun s => s.resetn = false) (fun s f k rest hs _ _ _ => ?_) _ s h,
    (process_drains s).intakeAtRest⟩
  exact takePacket_keeps (P := fun s => s.resetn = false) (fun _ _ h => h) (fun _ _ hc => hc.awake) (by exact hs) k

theorem packetArrives_awakeAtRest {s : State} (h : AwakeAtRest s) (k : Packet) : AwakeAtRest (packetArrives s k) := by
  unfold packetArrives
  split
  · exact process_awakeAtRest (by simpa using h.1)
  · exact h

theorem packetBytes_awakeAtRest {s : State} (h : AwakeAtRest s) (bs : List Byte) : AwakeAtRest (packetBytes s bs) := by
  unfold packetBytes
  split
  · exact packetArrives_awakeAtRest h _
  · exact h.congr rfl rfl id rfl le_rfl

/-- Without a frame in progress no line is composed. -/
theorem composeFillLine_noFrame {s : State} (h : s.frame = none) : composeFillLine s = s := by
  simp [composeFillLine, h]

theorem activeArrives_noFrame {s : State} (h : s.frame = none) (l : List Byte) : (activeArrives s l).frame = none := by
  unfold activeArrives
  split <;> simp [h]

theorem activeArrives_awakeAtRest {s : State} (h : AwakeAtRest s) (l : List Byte) : AwakeAtRest (activeArrives s l) :=
  h.congr (by simp) (by simp) (fun hf => activeArrives_noFrame hf l) (by simp) (by simp)

theorem readLine_awakeAtRest {s : State} (h : AwakeAtRest s) (l : List Byte) : AwakeAtRest (readLine s l) := by
  unfold readLine
  split
  · exact h
  · exact process_awakeAtRest (by simpa using h.1)
  · unfold laterLine
    split
    · exact h
    · split
      · split
        · exact packetBytes_awakeAtRest h _
        · exact h
      · split
        · exact activeArrives_awakeAtRest h _
        · exact h

theorem lineArrives_awakeAtRest {s : State} (h : AwakeAtRest s) (l : List Byte) : AwakeAtRest (lineArrives s l) := by
  have h1 : AwakeAtRest (s.repeatThrough (.line l)) := h
  unfold lineArrives
  simp only [h.1, Bool.false_eq_true, if_false]
  exact readLine_awakeAtRest h1 l

theorem cutLine_awakeAtRest {s : State} (h : AwakeAtRest s) (c : Option (List Byte)) : AwakeAtRest (cutLine s c) := by
  unfold cutLine
  split
  · exact process_awakeAtRest (by simpa using h.1)
  · unfold cutPacket
    split
    · exact h
    · split
      · exact packetBytes_awakeAtRest h _
      · exact h
  · exact h

theorem stopInput_awakeAtRest {s : State} (h : AwakeAtRest s) : AwakeAtRest (stopInput s) := by
  refine h.congr (by simp) (by simp) (fun hf => ?_) (by simp) (by simp)
  rw [stopInput, inputRunning_noFrame hf]
  exact hf

theorem State.repeatCut_awakeAtRest {s : State} (h : AwakeAtRest s) (c : Option (List Byte)) : AwakeAtRest (s.repeatCut c) := by
  cases c <;> exact h

theorem localLine_awakeAtRest {s : State} (h : AwakeAtRest s) : AwakeAtRest (localLine s) := by
  refine h.congr (by simp) (by simp) (fun hf => ?_) (by simp) (by simp)
  unfold localLine
  split
  · rw [composeFillLine_noFrame hf, hf]
  · exact hf

/-- A processor that does not wait, where the intake queue is at rest, has no packet to take. -/
theorem IntakeAtRest.of_not_waiting {s : State} (h : IntakeAtRest s) (hw : processorWaits s = false) :
    s.intake = [] ∨ s.frame = none := by
  obtain hn | hn | ⟨k, rest, hk, hans, -⟩ := h
  · exact .inl hn
  · exact .inr hn
  · cases hf : s.frame with
    | none => exact .inr rfl
    | some f => simp [processorWaits, hf, hk, hans] at hw

/-- The acceptance of a forwarded record touches the lane's slots and CONFLICT alone. -/
theorem acceptForwarded_frame (s : State) :
    (acceptForwarded s).resetn = s.resetn ∧ (acceptForwarded s).intake = s.intake ∧
    (acceptForwarded s).frame = s.frame ∧ (acceptForwarded s).lane.address = s.lane.address := by
  unfold acceptForwarded
  split <;> simp

theorem acceptForwarded_queue_length (s : State) :
    (acceptForwarded s).lane.queue.length = s.lane.queue.length + if s.lane.buffer.isSome then 1 else 0 := by
  unfold acceptForwarded
  split <;> simp [*]

/-- The freed slot goes to the waiting record, or to the waiting packet, or no packet waits for it (R180). -/
theorem finishTransfer_awakeAtRest {s : State} (h : AwakeAtRest s) : AwakeAtRest (finishTransfer s) := by
  unfold finishTransfer
  split
  · exact h
  · next r rest hq =>
    have hidle : ∀ u : State, u.resetn = false → u.intake = s.intake → u.frame = s.frame →
        processorWaits s = false → AwakeAtRest u := fun u hr hi hf hw =>
      ⟨hr, (h.2.of_not_waiting hw).elim (fun hn => .inl (hi.trans hn)) fun hn => .inr (.inl (hf.trans hn))⟩
    have haccept : ∀ u : State, u.resetn = false → u.intake = s.intake → u.frame = s.frame →
        processorWaits s = false → AwakeAtRest (acceptForwarded u) := fun u hr hi hf hw => by
      obtain ⟨hr', hi', hf', -⟩ := acceptForwarded_frame u
      exact hidle _ (hr'.trans hr) (hi'.trans hi) (hf'.trans hf) hw
    unfold grantSlot
    split
    · next hb _ _ =>
      obtain ⟨hr', hi', hf', ha'⟩ := acceptForwarded_frame (freedSlot s r rest .own)
      refine h.congr hr' hi' (fun hf => hf'.trans hf) ha' ?_
      refine le_of_eq (Eq.trans ?_ (acceptForwarded_queue_length (freedSlot s r rest .own)).symm)
      have hb : s.lane.buffer.isSome = true := hb
      simp [freedSlot, hq, hb]
    · exact process_awakeAtRest h.1
    · next hw => exact haccept _ h.1 rfl rfl hw
    · exact process_awakeAtRest h.1
    · next hw => exact hidle _ h.1 rfl rfl hw

theorem receiveRecord_awakeAtRest {s : State} (h : AwakeAtRest s) (bs : List Byte) : AwakeAtRest (receiveRecord s bs) := by
  unfold receiveRecord
  split
  · exact h
  · next r _ =>
    simp only
    split
    · exact h
    · exact h.congr rfl rfl id rfl (by simp [acceptForwarded])

/-- Every row but the assertion of RESETn leaves an awake node awake and its intake queue at rest. -/
theorem exec_awakeAtRest {s t : State} {i : Instr} (h : AwakeAtRest s) (hi : i ≠ .resetnAssert) (he : exec i s = .next t) :
    AwakeAtRest t := by
  have hb : AwakeAtRest s.begin := h
  have hl : ∀ p, AwakeAtRest (s.begin.latch p) := fun p => h
  cases hk : packetOf i with
  | some k =>
    rw [exec_packetOf hk, h.1] at he
    cases he
    exact packetArrives_awakeAtRest (s := entered s i) h k
  | none =>
    cases i <;> simp only [packetOf, reduceCtorEq] at hk
    case headerLineEnd l p => cases he; exact lineArrives_awakeAtRest (hl p) l
    case packetLine l p => cases he; exact lineArrives_awakeAtRest (hl p) l
    case activeLine l => cases he; exact lineArrives_awakeAtRest hb l
    case frameStartMark c p =>
      simp only [exec, execFrameStartMark, h.1, Bool.false_eq_true, if_false] at he
      cases he
      have h1 := State.repeatCut_awakeAtRest (hl p) c
      exact stopInput_awakeAtRest (cutLine_awakeAtRest (s := ((s.begin.latch p).repeatCut c).repeatThrough .mark) h1 c)
    case inputSignalLoss c p =>
      simp only [exec, execInputSignalLoss, h.1, Bool.false_eq_true, if_false] at he
      cases he
      exact stopInput_awakeAtRest (cutLine_awakeAtRest (State.repeatCut_awakeAtRest (hl p) c) c)
    case lineGapTimeout c p =>
      have h1 := State.repeatCut_awakeAtRest (hl p) c
      simp only [exec, execLineGapTimeout] at he
      split at he <;> cases he
      · exact stopInput_awakeAtRest (cutLine_awakeAtRest h1 c)
      · exact h1
    case headerTimerExpires p =>
      simp only [exec, execHeaderTimerExpires] at he
      split at he <;> cases he
      · exact process_awakeAtRest (by simpa using h.1)
      · exact process_awakeAtRest (by simpa using h.1)
      · exact hl p
    case gapTimerExpires =>
      simp only [exec, execGapTimerExpires] at he
      split at he <;> cases he <;> exact h
    case localFrameTimerExpires p =>
      simp only [exec, execLocalFrameTimerExpires] at he
      split at he <;> cases he
      · exact process_awakeAtRest (by simpa using h.1)
      · exact process_awakeAtRest (by simpa using h.1)
      · exact hl p
    case localLineTimer => cases he; exact localLine_awakeAtRest hb
    case clockSecondTick =>
      simp only [exec, execClockSecondTick] at he
      split at he <;> cases he <;> exact h
    case upstreamTransferStart b =>
      simp only [exec, execUpstreamTransferStart] at he
      split at he <;> cases he <;> exact h
    case upstreamTransferDone p =>
      simp only [exec, execUpstreamTransferDone] at he
      split at he <;> cases he
      · exact finishTransfer_awakeAtRest (hl p)
      · exact hl p
    case downstreamRecordReceived bs =>
      simp only [exec, execDownstreamRecordReceived] at he
      split at he <;> cases he
      · exact hb
      · exact receiveRecord_awakeAtRest hb bs
    case downstreamRecordCutShort =>
      simp only [exec, execDownstreamRecordCutShort] at he
      split at he <;> cases he <;> exact h
    case resetnAssert => exact absurd rfl hi
    case resetnRelease p =>
      simp only [exec, execResetnRelease, h.1, Bool.false_eq_true, if_false] at he
      cases he
      exact h
    case upstreamTransferCut b => cases he; exact h

/-- The assertion of RESETn empties the intake queue and holds the node. -/
theorem holdReset_held (s : State) : HeldInReset (holdReset s) ∧ (holdReset s).intake = [] :=
  ⟨⟨rfl, rfl, rfl, rfl, rfl, rfl⟩, rfl⟩

theorem releaseReset_awakeAtRest {s : State} (h : HeldInReset s) : AwakeAtRest (releaseReset s) := by
  obtain ⟨-, hf, -⟩ := h
  exact ⟨rfl, .inr (.inl hf)⟩

/-- What a row keeps: a held node stays in its reset state, and the intake queue is at rest. -/
theorem exec_heldOrAtRest {s t : State} {i : Instr} (hh : s.resetn = true → HeldInReset s) (hq : IntakeAtRest s)
    (he : exec i s = .next t) : (t.resetn = true → HeldInReset t) ∧ IntakeAtRest t := by
  cases hr : s.resetn with
  | false =>
    by_cases hi : i = .resetnAssert
    · subst hi
      simp only [exec, execResetnAssert, hr, Bool.false_eq_true, if_false] at he
      cases he
      exact ⟨fun _ => (holdReset_held _).1, .inl (holdReset_held _).2⟩
    · obtain ⟨ht, hrest⟩ := exec_awakeAtRest ⟨hr, hq⟩ hi he
      exact ⟨fun hn => absurd (ht.symm.trans hn) Bool.false_ne_true, hrest⟩
  | true =>
    have hs := hh hr
    by_cases hi : ∃ pins, i = .resetnRelease pins
    · obtain ⟨pins, rfl⟩ := hi
      simp only [exec, execResetnRelease, hr, if_true] at he
      cases he
      obtain ⟨ht, hrest⟩ := releaseReset_awakeAtRest (s := s.begin.latch pins) hs
      exact ⟨fun hn => absurd (ht.symm.trans hn) Bool.false_ne_true, hrest⟩
    · rw [exec_held hs fun pins hp => hi ⟨pins, hp⟩] at he
      cases he
      exact ⟨fun _ => heldAfter_held hs i, hq⟩

/-- Settles O4: a row of a held node is `heldAfter`, and every row of an awake one ends with the Command Processor at rest or
leaves the queue as it was. -/
theorem stepKeepsIntakeAtRest : Obligations.StepKeepsIntakeAtRest := by
  intro s t hh hq he
  cases hs : s.pending with
  | nil =>
    rw [step_idle hs] at he
    cases he
    exact ⟨hh, hq⟩
  | cons c rest =>
    rw [step_cons hs] at he
    exact exec_heldOrAtRest (s := { s with pending := rest }) hh hq he

end Sys2Proof.Machine
end

section
/-! Invariants of the blocks behind the ports: the timing and the panel (R140, R161), audits and takes (R29, R42). They read nothing of
the ports, the queues of packets and records or the frame in progress, so `KeepsBlocks` leaves only the operations that touch a
block. -/

namespace Sys2Proof.Machine

/-! ### Keeping a property of the blocks -/

/-- `t` differs from `s` in nothing but the ports, the input port's position, the intake queue, the return lane, the frame in
progress and the kept flags. -/
def SameBlocks (s t : State) : Prop :=
  t.tables = s.tables ∧ t.audit = s.audit ∧ t.timing = s.timing ∧ t.context = s.context ∧ t.photos = s.photos ∧
  t.glyphs = s.glyphs ∧ t.capture = s.capture ∧ t.output = s.output

theorem SameBlocks.rfl {s : State} : SameBlocks s s := ⟨.refl _, .refl _, .refl _, .refl _, .refl _, .refl _, .refl _, .refl _⟩

theorem joinIntake_blocks (s : State) (k : Packet) : SameBlocks s (joinIntake s k) := by simp [SameBlocks]

theorem localLine_blocks (s : State) : SameBlocks s (localLine s) := by simp [SameBlocks]

theorem acceptForwarded_blocks (s : State) : SameBlocks s (acceptForwarded s) := by
  unfold acceptForwarded
  split <;> exact .rfl

theorem receiveRecord_blocks (s : State) (bs : List Byte) : SameBlocks s (receiveRecord s bs) := by
  unfold receiveRecord
  split
  · exact .rfl
  · simp only
    split
    · exact .rfl
    · exact acceptForwarded_blocks _

/-- What the rows ask of a property that reads the blocks alone. -/
structure KeepsBlocks (P : State → Prop) : Prop where
  same : ∀ s t, SameBlocks s t → P s → P t
  carried : ∀ s t, Carried s t → P s → P t
  header : ∀ s l, P s → P (headerEnd s l)
  headerTimer : ∀ s, P s → s.timing.link = .live ∨ s.timing.link = .lossWait → P (missFrame s .headerTimer)
  localTimer : ∀ s, P s → s.timing.link = .search ∨ s.timing.link = .standalone → P (frameStart s .localTimer false)
  stop : ∀ s, P s → P (stopInput s)
  active : ∀ s l, P s → P (activeArrives s l)
  gap : ∀ s, P s → P { s with timing := { s.timing with good := 0, headerTimer := false } }
  tick : ∀ s, P s → P { s with timing := tickClock s.timing }
  holdReset : ∀ s, P s → P (holdReset s)
  releaseReset : ∀ s, P s → P (releaseReset s)

namespace KeepsBlocks

variable {P : State → Prop} (K : KeepsBlocks P)

include K

theorem keeps : Keeps P where
  ports s _ _ h := K.same s _ .rfl h
  receiver s _ h := K.same s _ .rfl h
  raise s _ h := K.same s _ .rfl h
  join s k h := K.same s _ (joinIntake_blocks s k) h
  take s k rest h _ _ :=
    takePacket_keeps (fun s _ h => K.same s _ .rfl h) K.carried (K.same s { s with intake := rest } .rfl h) k
  header := K.header
  headerTimer := K.headerTimer
  localTimer := K.localTimer
  stop := K.stop
  active := K.active
  localLine s h := K.same s _ (localLine_blocks s) h
  gap := K.gap
  tick := K.tick
  hold s _ h := K.same s _ .rfl h
  sending s _ h := K.same s _ .rfl h
  freed s _ _ _ h _ := K.same s _ .rfl h
  accept s r rest g h _ := K.same (freedSlot s r rest g) _ (acceptForwarded_blocks _) (K.same s _ .rfl h)
  receive s bs h := K.same s _ (receiveRecord_blocks s bs) h
  holdReset := K.holdReset
  releaseReset := K.releaseReset

/-- A property of the blocks that every operation keeps is kept by every step. -/
theorem step {s t : State} (h : P s) (he : Machine.step s = .next t) : P t :=
  K.keeps.step (fun s _ h => K.same s _ .rfl h) h he

end KeepsBlocks

/-! ### The forms of a header line and of a miss -/

/-- The link state in which a header line or a timer begins a frame: LIVE or LOSS_WAIT, or the frame enters STANDALONE. -/
def StartsLinked (timing : FrameTiming) (standalone : Bool) : Prop :=
  timing.link = .live ∨ timing.link = .lossWait ∨ standalone = true

/-- A state with the timing and the events that a header line or a miss leaves when it begins a frame. -/
def timed (s : State) (receiver : LinkReceiver) (timing : FrameTiming) (events : EventSet) : State :=
  { s with receiver := receiver, timing := timing, lane := { s.lane with events := events } }

/-- A miss in LIVE or LOSS_WAIT begins a frame (R146, R149). -/
theorem missFrame_form {s : State} (hl : s.timing.link = .live ∨ s.timing.link = .lossWait) (c : FrameCause) :
    ∃ timing events standalone, missFrame s c = frameStart (timed s s.receiver timing events) c standalone ∧
      StartsLinked timing standalone ∧ (TimingInRange s.timing → TimingInRange timing) := by
  unfold missFrame
  split
  · next h =>
    refine ⟨{ s.timing with link := .lossWait, good := 0, miss := 1 }, s.lane.events.raise .linkChanged, false, rfl,
      .inr (.inl rfl), fun ht => ?_⟩
    simp_all [TimingInRange]
  · next h =>
    have hw : s.timing.link = .lossWait := hl.resolve_left h
    split
    · next hm =>
      refine ⟨{ s.timing with miss := s.timing.miss + 1 }, s.lane.events, false, rfl, .inr (.inl hw), fun ht => ?_⟩
      simp_all [TimingInRange]
    · refine ⟨{ s.timing with link := .standalone, good := 0, miss := 0, localTimer := true, headerTimer := true },
        s.lane.events.raise .linkChanged, true, rfl, .inr (.inr rfl), fun ht => ?_⟩
      simp_all [TimingInRange]

theorem setClock_link (t : FrameTiming) (h : Header) : (setClock t h).link = t.link := by
  unfold setClock
  split <;> rfl

theorem setClock_inRange {t : FrameTiming} (ht : TimingInRange t) (h : Header) : TimingInRange (setClock t h) := by
  unfold setClock
  split
  · next hin =>
    obtain ⟨hg, hm, -, -, -, hr⟩ := ht
    exact ⟨hg, hm, hin.1, hin.2.1, hin.2.2, hr⟩
  · exact ht

/-- A good header begins its frame in LIVE, or counts (R148–R151). -/
theorem goodHeader_form (s : State) (h : Header) :
    (∃ timing, goodHeader s h = { s with timing := timing } ∧ timing.link = s.timing.link ∧
      (TimingInRange s.timing → TimingInRange timing)) ∨
    ∃ timing events, goodHeader s h = frameStart (timed s s.receiver timing events) (.goodHeader h.number) false ∧
      StartsLinked timing false ∧ (TimingInRange s.timing → TimingInRange timing) := by
  unfold goodHeader
  split
  · next hl =>
    refine .inr ⟨{ s.timing with miss := 0 }, s.lane.events, rfl, .inl hl, fun ht => ?_⟩
    simp_all [TimingInRange]
  · next hl =>
    refine .inr ⟨{ s.timing with link := .live, good := 0, miss := 0 }, s.lane.events.raise .linkChanged, rfl, .inl rfl,
      fun ht => ?_⟩
    simp_all [TimingInRange]
  · next h1 h2 =>
    split
    · next hg =>
      refine .inl ⟨{ s.timing with good := s.timing.good + 1, headerTimer := true }, rfl, rfl, fun ht => ?_⟩
      have : s.timing.good + 1 < 8 := lt_of_lt_of_le hg (by unfold goodTarget; split <;> omega)
      simp_all [TimingInRange]
    · refine .inr ⟨{ s.timing with link := .live, good := 0, miss := 0, localTimer := false, headerTimer := true },
        s.lane.events.raise .linkChanged, rfl, .inl rfl, fun ht => ?_⟩
      simp_all [TimingInRange]

/-- A header line sets the timing, and begins a frame or not (R141). -/
theorem headerEnd_form (s : State) (l : List Byte) :
    (∃ receiver timing, headerEnd s l = { s with receiver := receiver, timing := timing } ∧
      timing.link = s.timing.link ∧ (TimingInRange s.timing → TimingInRange timing)) ∨
    ∃ receiver timing events c standalone,
      headerEnd s l = frameStart (timed s receiver timing events) c standalone ∧
      StartsLinked timing standalone ∧ (TimingInRange s.timing → TimingInRange timing) := by
  unfold headerEnd
  simp only
  split
  · next h _ =>
    obtain ⟨t, he, hl, ht⟩ | ⟨t, e, he, hl, ht⟩ := goodHeader_form
      { s with receiver := ⟨.lines 0, some (h.width, h.height)⟩, timing := setClock s.timing h } h
    · exact .inl ⟨_, t, he, hl.trans (setClock_link _ h), fun hs => ht (setClock_inRange hs h)⟩
    · exact .inr ⟨_, t, e, _, _, he, hl, fun hs => ht (setClock_inRange hs h)⟩
  · unfold badHeader
    have hclear : TimingInRange s.timing → TimingInRange { s.timing with good := 0, headerTimer := true } := fun ht => by
      simp_all [TimingInRange]
    split
    · exact .inl ⟨_, _, rfl, rfl, hclear⟩
    · exact .inl ⟨_, _, rfl, rfl, hclear⟩
    · next h1 h2 =>
      have hl : s.timing.link = .live ∨ s.timing.link = .lossWait := by
        cases hk : s.timing.link <;> simp_all
      obtain ⟨t, e, b, he, hl, ht⟩ := missFrame_form
        (s := { s with receiver := { s.receiver with position := .lines 0 } }) hl .badHeader
      exact .inr ⟨_, t, e, _, b, he, hl, ht⟩

/-! ### The counts and the clock (R140, R146, R148–R151, R154) -/

theorem Carried.timing {s t : State} (h : Carried s t) : t.timing = s.timing ∨ t.timing = State.reset.timing := by
  cases h with
  | nodeResetTables => exact .inl (by simp [resetTables])
  | nodeResetFull => exact .inr (by simp [resetFull, resetBlocks])
  | _ => exact .inl rfl

theorem reset_timingInRange : TimingInRange State.reset.timing := by simp [TimingInRange, State.reset]

theorem frameStart_timingInRange {s : State} (h : TimingInRange s.timing) (c : FrameCause) (b : Bool) :
    TimingInRange (frameStart s c b).timing := by
  rw [frameStart_timing]
  exact h

theorem tickClock_inRange {t : FrameTiming} (h : TimingInRange t) : TimingInRange (tickClock t) := by
  obtain ⟨hg, hm, hh, hmin, hs, hr⟩ := h
  unfold tickClock
  split
  · exact ⟨hg, hm, hh, hmin, by simpa using by omega, hr⟩
  · split
    · exact ⟨hg, hm, hh, by simpa using by omega, Nat.succ_pos _, hr⟩
    · split
      · exact ⟨hg, hm, by simpa using by omega, Nat.succ_pos _, Nat.succ_pos _, hr⟩
      · exact ⟨hg, hm, Nat.succ_pos _, Nat.succ_pos _, Nat.succ_pos _, hr⟩

/-- A stop leaves the timing, or takes LIVE to LOSS_WAIT (R146). -/
theorem stopInput_timing (s : State) :
    (stopInput s).timing = s.timing ∨
    (s.timing.link = .live ∧
      (stopInput s).timing =
        { s.timing with link := .lossWait, good := 0, miss := s.timing.miss + 1, missed := true }) := by
  unfold stopInput
  split
  · simp only [composeFillLine_frame]
    unfold missAtStop
    split
    · split
      · next hk =>
        refine .inr ⟨by simpa using hk.2.2, ?_⟩
        simp
      · simp
    · simp
  · exact .inl rfl

theorem stopInput_timingInRange {s : State} (h : TimingInRange s.timing) : TimingInRange (stopInput s).timing := by
  obtain he | ⟨hl, he⟩ := stopInput_timing s
  · rwa [he]
  · rw [he]
    simp_all [TimingInRange]

theorem keepsBlocks_timingInRange : KeepsBlocks fun s => TimingInRange s.timing where
  same s t h hs := by
    obtain ⟨-, -, ht, -⟩ := h
    rwa [ht]
  carried s t h hs := h.timing.elim (fun he => he ▸ hs) fun he => he ▸ reset_timingInRange
  header s l h := by
    obtain ⟨_, _, he, -, ht⟩ | ⟨_, _, _, _, _, he, -, ht⟩ := headerEnd_form s l
    · rw [he]
      exact ht h
    · rw [he]
      exact frameStart_timingInRange (ht h) _ _
  headerTimer s h hl := by
    obtain ⟨_, _, _, he, -, ht⟩ := missFrame_form hl .headerTimer
    rw [he]
    exact frameStart_timingInRange (ht h) _ _
  localTimer s h _ := frameStart_timingInRange h _ _
  stop _ h := stopInput_timingInRange h
  active s l hs := by simpa using hs
  gap s h := by simp_all [TimingInRange]
  tick _ ht := tickClock_inRange ht
  holdReset _ _ := reset_timingInRange
  releaseReset _ h := h

/-! ### The panel and the backlight (R161, R165, R166) -/

theorem Carried.panel {s t : State} (h : Carried s t) :
    (t.output.panel = s.output.panel ∧ t.output.level = s.output.level ∧ t.output.debounce = s.output.debounce) ∨
    t.output = State.reset.output := by
  cases h with
  | nodeResetTables => exact .inl (by simp [resetTables])
  | nodeResetFull => exact .inr (by simp [resetFull, resetBlocks])
  | _ => exact .inl ⟨rfl, rfl, rfl⟩

theorem reset_panelSafe : PanelSafe State.reset.output := by simp [PanelSafe, State.reset]

theorem samplePanel_debounce (s : State) : (samplePanel s).output.debounce < 4 := by
  unfold samplePanel
  extract_lets level
  split
  · exact Nat.succ_pos _
  · split
    · next hd => exact hd
    · exact Nat.succ_pos _

theorem stepBacklight_absent (s : State) (h : (stepBacklight s).output.panel = .absent) :
    (stepBacklight s).output.level = 0 := by
  unfold stepBacklight at h ⊢
  split at h <;> simp_all

theorem stepBacklight_debounce (s : State) : (stepBacklight s).output.debounce = s.output.debounce := by
  unfold stepBacklight
  split <;> rfl

/-- The panel and the backlight after a frame start: one debounce sample and one fade step. -/
theorem frameStart_output (s : State) (c : FrameCause) (b : Bool) :
    (frameStart s c b).output =
      (stepBacklight (samplePanel (beginFrame (settleFrame s c b) (frameKind c b)))).output := by
  unfold frameStart
  simp

theorem frameStart_panelSafe (s : State) (c : FrameCause) (b : Bool) :
    PanelSafe (frameStart s c b).output := by
  rw [frameStart_output]
  refine ⟨stepBacklight_absent _, ?_⟩
  rw [stepBacklight_debounce]
  exact samplePanel_debounce _

theorem keepsBlocks_panelSafe : KeepsBlocks fun s => PanelSafe s.output where
  same s t h hs := by
    obtain ⟨-, -, -, -, -, -, -, ho⟩ := h
    rwa [ho]
  carried s t h hs := by
    obtain ⟨hp, hl, hd⟩ | he := h.panel
    · unfold PanelSafe
      rwa [hp, hl, hd]
    · exact he ▸ reset_panelSafe
  header s l h := by
    obtain ⟨_, _, he, -⟩ | ⟨_, _, _, _, _, he, -⟩ := headerEnd_form s l
    · rw [he]
      exact h
    · rw [he]
      exact frameStart_panelSafe _ _ _
  headerTimer s h hl := by
    obtain ⟨_, _, _, he, -⟩ := missFrame_form hl .headerTimer
    rw [he]
    exact frameStart_panelSafe _ _ _
  localTimer s _ _ := frameStart_panelSafe s _ _
  stop s h := by simpa using h
  active s l h := by simpa using h
  gap _ h := h
  tick _ h := h
  holdReset _ _ := reset_panelSafe
  releaseReset _ h := h

/-- Settles O5: every operation keeps the timing (`keepsBlocks_timingInRange`) and the panel (`keepsBlocks_panelSafe`). -/
theorem stepKeepsTimingAndPanelSafe : Obligations.StepKeepsTimingAndPanelSafe :=
  ⟨fun _ _ => keepsBlocks_timingInRange.step, fun _ _ => keepsBlocks_panelSafe.step⟩

end Sys2Proof.Machine
end

section
/-! Audits and takes: an audit progresses exactly while the staged state is AUDITING, and a take is pending only in LIVE and
LOSS_WAIT with no audit running (R29, R40, R42, R44). -/

namespace Sys2Proof.Machine

/-! ### The staged tables alone -/

/-- An audit progresses exactly while the staged state is AUDITING, and no take is pending beside it. -/
def AuditPaced (s : State) : Prop :=
  (s.audit.progress.isSome ↔ s.tables.stagedState = .auditing) ∧
  (s.tables.pendingTake.isSome → s.tables.stagedState ≠ .auditing)

theorem takeSafe_iff (s : State) :
    TakeSafe s ↔ AuditPaced s ∧ (s.tables.pendingTake.isSome → s.timing.link = .live ∨ s.timing.link = .lossWait) := by
  unfold TakeSafe AuditPaced
  tauto

/-- A state with the same tables and audit unit is paced alike. -/
theorem AuditPaced.congr {s t : State} (h : AuditPaced s) (ht : t.tables = s.tables) (ha : t.audit = s.audit) : AuditPaced t := by
  unfold AuditPaced
  rwa [ht, ha]

/-- No audit runs where the staged state is not AUDITING. -/
theorem AuditPaced.idle {s : State} (h : AuditPaced s) (hs : s.tables.stagedState ≠ .auditing) : s.audit.progress = none := by
  have := mt h.1.1 hs
  simpa using this

/-- A running audit that is aborted, or none, leaves no audit running. -/
theorem AuditPaced.afterAbort {s : State} (h : AuditPaced s) (r : AuditResult) : (afterAbort s r).progress = none := by
  unfold Machine.afterAbort
  split
  · rfl
  · exact h.idle ‹_›

theorem Carried.auditPaced {s t : State} (h : Carried s t) (hs : AuditPaced s) : AuditPaced t := by
  cases h with
  | edit b hp _ _ =>
    have := hs.afterAbort .edited
    simp_all [AuditPaced, staging, Machine.afterAbort]
  | copied hp => simp [AuditPaced, hs.afterAbort .copied]
  | audited p hp _ => simp [AuditPaced, hp]
  | take target state _ hp hst =>
    have hne : state ≠ .auditing := by
      rw [hst]
      split <;> simp_all
    simp [AuditPaced, hs.afterAbort .taken, hne]
  | takeCancel => exact ⟨hs.1, by simp⟩
  | nodeResetTables => simp [AuditPaced, resetTables, auditAfterReset]
  | nodeResetFull => simp [AuditPaced, resetFull, resetBlocks, auditAfterReset, State.reset]
  | _ => exact hs

/-- A command leaves no take pending that was not, unless in LIVE or LOSS_WAIT. -/
theorem Carried.pending_linked {s t : State} (h : Carried s t) (hs : TakeSafe s) (hp : t.tables.pendingTake.isSome) :
    t.timing.link = .live ∨ t.timing.link = .lossWait := by
  have hlink := ((takeSafe_iff s).1 hs).2
  cases h with
  | take target state hl => exact hl
  | takeCancel => simp at hp
  | nodeResetTables => simp [resetTables] at hp
  | nodeResetFull => simp [resetFull, resetBlocks, State.reset] at hp
  | _ => exact hlink hp

/-! ### Frame starts -/

/-- One frame start of an audit keeps it paced, and touches no pending take (R31, R32). -/
theorem auditFrame_paced {s : State} (h : AuditPaced s) :
    AuditPaced (auditFrame s) ∧ (auditFrame s).tables.pendingTake = s.tables.pendingTake := by
  unfold auditFrame
  cases hp : s.audit.progress with
  | none => exact ⟨h, rfl⟩
  | some p =>
    have hst : s.tables.stagedState = .auditing := h.1.1 (by rw [hp]; rfl)
    have hno : ¬ s.tables.pendingTake.isSome = true := fun ht => h.2 ht hst
    simp only
    (repeat' split) <;> simp_all [AuditPaced, completeAudit, State.raise]

/-- The pending take of a frame start: cancelled, applied or left (R43, R44). -/
theorem settleTake_paced {s : State} (h : AuditPaced s) (n : FrameNo) (c : Bool) : AuditPaced (settleTake s n c) := by
  unfold settleTake
  split
  · exact h
  · next target ht =>
    have hne : s.tables.stagedState ≠ .auditing := h.2 (by rw [ht]; rfl)
    split
    · exact ⟨h.1, by simp [cancelTake, State.raise]⟩
    · split
      · simp [AuditPaced, applyTake, State.raise, State.recount, h.idle hne]
      · exact h

theorem settleTake_pending {s : State} {n : FrameNo} {c : Bool} (h : (settleTake s n c).tables.pendingTake.isSome) :
    s.tables.pendingTake.isSome ∧ c = false := by
  unfold settleTake at h
  split at h
  · next ht => simp [ht] at h
  · next target ht =>
    split at h
    · simp [cancelTake, State.raise] at h
    · next hc =>
      split at h
      · simp [applyTake, State.raise, State.recount] at h
      · exact ⟨by rw [ht]; rfl, by simpa using hc⟩

theorem expireCounts_paced {s : State} (h : AuditPaced s) :
    AuditPaced (expireCounts s) ∧ (expireCounts s).tables.pendingTake = s.tables.pendingTake := by
  unfold expireCounts
  split
  · exact ⟨h, rfl⟩
  · exact ⟨h, rfl⟩

theorem settleFrame_paced {s : State} (h : AuditPaced s) (c : FrameCause) (b : Bool) : AuditPaced (settleFrame s c b) := by
  unfold settleFrame
  refine settleTake_paced (expireCounts_paced ?_).1 _ _
  refine AuditPaced.congr (auditFrame_paced ?_).1 (timeFrame_frame ..).2.2.2.2.2.1 (timeFrame_frame ..).2.2.2.2.2.2.1
  exact h.congr (by simp) (by simp)

/-- A take that is pending after a frame start was pending before it, and the frame does not enter STANDALONE. -/
theorem settleFrame_pending {s : State} (hs : AuditPaced s) {c : FrameCause} {b : Bool}
    (h : (settleFrame s c b).tables.pendingTake.isSome) : s.tables.pendingTake.isSome ∧ b = false := by
  unfold settleFrame at h
  obtain ⟨hp, hb⟩ := settleTake_pending h
  have hkept : AuditPaced (keepFlags (failInFlight s .lost)) := hs.congr (by simp) (by simp)
  have htimed : AuditPaced (timeFrame (auditFrame (keepFlags (failInFlight s .lost)))
      (newNumber (auditFrame (keepFlags (failInFlight s .lost))) c) (startsMissed c)) :=
    (auditFrame_paced hkept).1.congr (by simp) (by simp)
  rw [(expireCounts_paced htimed).2] at hp
  refine ⟨?_, (Bool.or_eq_false_iff.1 hb).2⟩
  simpa [(auditFrame_paced hkept).2] using hp

theorem frameStart_takeSafe {s : State} (h : AuditPaced s) {c : FrameCause} {b : Bool}
    (hl : s.tables.pendingTake.isSome → StartsLinked s.timing b) : TakeSafe (frameStart s c b) := by
  refine (takeSafe_iff _).2 ⟨(settleFrame_paced h c b).congr (by simp) (by simp), fun hp => ?_⟩
  rw [frameStart_tables] at hp
  obtain ⟨hs, hb⟩ := settleFrame_pending h hp
  obtain hk | hk | hk := hl hs
  · exact .inl (by simpa [timeFrame] using hk)
  · exact .inr (by simpa [timeFrame] using hk)
  · exact absurd (hb.symm.trans hk) Bool.false_ne_true

theorem frameStart_timed_takeSafe {s : State} (h : TakeSafe s) {receiver : LinkReceiver} {timing : FrameTiming}
    {events : EventSet} {c : FrameCause} {b : Bool} (hl : StartsLinked timing b) :
    TakeSafe (frameStart (timed s receiver timing events) c b) :=
  frameStart_takeSafe (s := timed s receiver timing events) ((takeSafe_iff s).1 h).1 fun _ => hl

/-- An operation that touches neither the tables nor the audit unit, and keeps LIVE and LOSS_WAIT, keeps a take safe. -/
theorem TakeSafe.congr {s t : State} (h : TakeSafe s) (ht : t.tables = s.tables) (ha : t.audit = s.audit)
    (hl : s.timing.link = .live ∨ s.timing.link = .lossWait → t.timing.link = .live ∨ t.timing.link = .lossWait) :
    TakeSafe t := by
  obtain ⟨hp, hk⟩ := (takeSafe_iff s).1 h
  refine (takeSafe_iff t).2 ⟨hp.congr ht ha, fun hs => hl (hk ?_)⟩
  rwa [ht] at hs

theorem tickClock_link (t : FrameTiming) : (tickClock t).link = t.link := by
  unfold tickClock
  (repeat' split) <;> rfl

theorem keepsBlocks_takeSafe : KeepsBlocks TakeSafe where
  same s t h hs := by
    obtain ⟨ht, ha, htm, -⟩ := h
    exact hs.congr ht ha fun hl => by rwa [htm]
  carried s t h hs := (takeSafe_iff t).2 ⟨h.auditPaced ((takeSafe_iff s).1 hs).1, h.pending_linked hs⟩
  header s l hs := by
    obtain ⟨_, _, he, hl, -⟩ | ⟨_, _, _, _, _, he, hl, -⟩ := headerEnd_form s l
    · rw [he]
      exact hs.congr rfl rfl fun hk => by rwa [hl]
    · rw [he]
      exact frameStart_timed_takeSafe hs hl
  headerTimer s hs hl := by
    obtain ⟨_, _, _, he, hl, -⟩ := missFrame_form hl .headerTimer
    rw [he]
    exact frameStart_timed_takeSafe hs hl
  localTimer s hs _ := by
    obtain ⟨hp, hk⟩ := (takeSafe_iff s).1 hs
    exact frameStart_takeSafe hp fun ht => (hk ht).elim .inl fun hw => .inr (.inl hw)
  stop s hs := hs.congr (by simp) (by simp) fun hl => by
    obtain he | ⟨-, he⟩ := stopInput_timing s
    · rwa [he]
    · exact .inr (by rw [he])
  active s l hs := hs.congr (by simp) (by simp) fun hl => by simpa using hl
  gap s hs := hs.congr rfl rfl id
  tick s hs := hs.congr rfl rfl fun hl => by simpa only [tickClock_link] using hl
  holdReset s _ := by simp [TakeSafe, Machine.holdReset, resetBlocks, auditAfterReset, State.reset]
  releaseReset s hs := hs.congr rfl rfl id

/-- Settles O6: every operation keeps a take safe (`keepsBlocks_takeSafe`). -/
theorem stepKeepsTakeSafe : Obligations.StepKeepsTakeSafe := fun _ _ => keepsBlocks_takeSafe.step

end Sys2Proof.Machine
end

section
/-! The Table Store's banks, the frame context and the stores of fixed size: their records stand in their ranges and in order
(R1–R22, R56, R132, R184), and no store changes its size or its form (R23, R87, R91, R96, R157). -/

namespace Sys2Proof.Machine

/-! ### The banks and the frame context at a frame start -/

/-- Both banks after an event of the input port are banks that stood before it, and the context keeps its settings and
highlights and keeps or releases its override. -/
structure RecordsKept (s t : State) : Prop where
  live : t.tables.live = s.tables.live ∨ t.tables.live = s.tables.staged
  staged : t.tables.staged = s.tables.staged
  settings : t.context.settings = s.context.settings
  high0 : t.context.high0 = s.context.high0
  high1 : t.context.high1 = s.context.high1
  override : t.context.override = s.context.override ∨ t.context.override = none

theorem RecordsKept.of_eq {s t : State} (ht : t.tables = s.tables) (hc : t.context = s.context) : RecordsKept s t := by
  constructor <;> simp [ht, hc]

theorem settleTake_banks (s : State) (n : FrameNo) (c : Bool) :
    ((settleTake s n c).tables.live = s.tables.live ∨ (settleTake s n c).tables.live = s.tables.staged) ∧
    (settleTake s n c).tables.staged = s.tables.staged := by
  unfold settleTake
  (repeat' split) <;> simp [cancelTake, applyTake, State.raise, State.recount]

theorem expireCounts_banks (s : State) :
    (expireCounts s).tables.live = s.tables.live ∧ (expireCounts s).tables.staged = s.tables.staged := by
  unfold expireCounts
  split <;> simp [State.recount]

theorem auditFrame_banks (s : State) :
    (auditFrame s).tables.live = s.tables.live ∧ (auditFrame s).tables.staged = s.tables.staged := by
  unfold auditFrame
  (repeat' split) <;> simp [completeAudit, State.raise]

theorem settleFrame_banks (s : State) (c : FrameCause) (b : Bool) :
    ((settleFrame s c b).tables.live = s.tables.live ∨ (settleFrame s c b).tables.live = s.tables.staged) ∧
    (settleFrame s c b).tables.staged = s.tables.staged := by
  unfold settleFrame
  simpa [expireCounts_banks, auditFrame_banks] using settleTake_banks
    (expireCounts (timeFrame (auditFrame (keepFlags (failInFlight s .lost)))
      (newNumber (auditFrame (keepFlags (failInFlight s .lost))) c) (startsMissed c)))
    (newNumber (auditFrame (keepFlags (failInFlight s .lost))) c)
    (isDiscontinuity (auditFrame (keepFlags (failInFlight s .lost))) c || b)

/-- The frame context after a frame start (R58). -/
theorem frameStart_context (s : State) (c : FrameCause) (b : Bool) :
    (frameStart s c b).context = contextAfter s.context (snapshotOf (settleFrame s c b)).active := by
  unfold frameStart beginFrame
  simp

theorem overrideAfter_eq (c : FrameContext) (a : Option (Nat × SchedEntry)) :
    overrideAfter c a = c.override ∨ overrideAfter c a = none := by
  unfold overrideAfter
  split
  · split
    · exact .inr rfl
    · exact .inl (by simp [*])
  · exact .inr rfl

theorem frameStart_records (s : State) (c : FrameCause) (b : Bool) : RecordsKept s (frameStart s c b) := by
  obtain ⟨hl, hs⟩ := settleFrame_banks s c b
  have hc := frameStart_context s c b
  refine ⟨by simpa using hl, by simpa using hs, ?_, ?_, ?_, ?_⟩ <;> rw [hc]
  · rfl
  · rfl
  · rfl
  · exact overrideAfter_eq s.context _

/-- A property of the banks and the context that a frame start's `RecordsKept` keeps. -/
theorem keepsBlocks_of_recordsKept {P : State → Prop} (hk : ∀ s t, RecordsKept s t → P s → P t)
    (hc : ∀ s t, Carried s t → P s → P t) (hr : ∀ s, P s → P (holdReset s)) : KeepsBlocks P where
  same s t h hs := by
    obtain ⟨ht, -, -, hx, -⟩ := h
    exact hk s t (.of_eq ht hx) hs
  carried := hc
  header s l hs := by
    obtain ⟨_, _, he, -⟩ | ⟨_, _, _, _, _, he, -⟩ := headerEnd_form s l
    · rw [he]
      exact hk s _ (.of_eq rfl rfl) hs
    · rw [he]
      exact hk _ _ (frameStart_records _ _ _) (hk s (timed s _ _ _) (.of_eq rfl rfl) hs)
  headerTimer s hs hl := by
    obtain ⟨_, _, _, he, -⟩ := missFrame_form hl .headerTimer
    rw [he]
    exact hk _ _ (frameStart_records _ _ _) (hk s (timed s _ _ _) (.of_eq rfl rfl) hs)
  localTimer s hs _ := hk _ _ (frameStart_records _ _ _) hs
  stop s hs := hk s _ (.of_eq (by simp) (by simp)) hs
  active s l hs := hk s _ (.of_eq (by simp) (by simp)) hs
  gap s hs := hk s _ (.of_eq rfl rfl) hs
  tick s hs := hk s _ (.of_eq rfl rfl) hs
  holdReset := hr
  releaseReset s hs := hk s _ (.of_eq rfl rfl) hs

/-! ### Records within their ranges (R4–R22, R56, R132, R184) -/

theorem RecordsKept.inRange {s t : State} (h : RecordsKept s t) (hs : RecordsInRange s) : RecordsInRange t := by
  obtain ⟨hl, hst, hset, hh, ho⟩ := hs
  refine ⟨?_, h.staged ▸ hst, h.settings ▸ hset, ?_, fun o hot => ?_⟩
  · obtain he | he := h.live
    · exact he ▸ hl
    · exact he ▸ hst
  · rw [h.high0, h.high1]
    exact hh
  · obtain he | he := h.override
    · exact ho o (he ▸ hot)
    · rw [he] at hot
      cases hot

theorem emptyContext_inRange {c : FrameContext} (h : ContextInRange c) :
    ContextInRange { c with override := none, high0 := none, high1 := none } :=
  ⟨h.1, by simp, by simp⟩

theorem reset_recordsInRange {s : State} (hb : s.tables = State.reset.tables) (hc : s.context = State.reset.context) :
    RecordsInRange s := by
  unfold RecordsInRange
  rw [hb, hc]
  exact ⟨emptyBank_inRange, emptyBank_inRange, defaultSettings_inRange, by simp [State.reset], by simp [State.reset]⟩

theorem Carried.recordsInRange {s t : State} (h : Carried s t) (hs : RecordsInRange s) : RecordsInRange t := by
  obtain ⟨hl, hst, hc⟩ := hs
  cases h with
  | edit b _ hb _ => exact ⟨hl, hb hst, hc⟩
  | copied => exact ⟨hl, hl, hc⟩
  | context c hcc => exact ⟨hl, hst, hcc hc⟩
  | nodeResetTables =>
    have := emptyContext_inRange hc
    simpa [RecordsInRange, resetTables] using ⟨emptyBank_inRange, this⟩
  | nodeResetFull => exact reset_recordsInRange (by simp [resetFull, resetBlocks]) (by simp [resetFull, resetBlocks])
  | _ => exact ⟨hl, hst, hc⟩

/-- Settles O9: what the readers accept stands in its range (`Carried.recordsInRange`), and a frame start moves banks and
releases overrides only (`RecordsKept`). -/
theorem stepKeepsRecordsInRange : Obligations.StepKeepsRecordsInRange := fun _ _ =>
  (keepsBlocks_of_recordsKept (fun _ _ => RecordsKept.inRange) (fun _ _ => Carried.recordsInRange)
    fun _ _ => reset_recordsInRange rfl rfl).step

/-! ### One record an id, in order (R1, R8, R14, R18) -/

theorem emptyBank_sorted : BankSorted emptyBank := ⟨rfl, rfl⟩

theorem RecordsKept.sorted {s t : State} (h : RecordsKept s t) (hs : BanksSorted s) : BanksSorted t := by
  refine ⟨?_, h.staged ▸ hs.2⟩
  obtain he | he := h.live
  · exact he ▸ hs.1
  · exact he ▸ hs.2

theorem Carried.sorted {s t : State} (h : Carried s t) (hs : BanksSorted s) : BanksSorted t := by
  obtain ⟨hl, hst⟩ := hs
  cases h with
  | edit b _ _ hb => exact ⟨hl, hb hst⟩
  | copied => exact ⟨hl, hl⟩
  | nodeResetTables => simpa [BanksSorted, resetTables] using emptyBank_sorted
  | nodeResetFull => simpa [BanksSorted, resetFull, resetBlocks, State.reset] using emptyBank_sorted
  | _ => exact ⟨hl, hst⟩

theorem keepsBlocks_banksSorted : KeepsBlocks BanksSorted :=
  keepsBlocks_of_recordsKept (fun _ _ => RecordsKept.sorted) (fun _ _ => Carried.sorted)
    fun _ _ => ⟨emptyBank_sorted, emptyBank_sorted⟩

/-! ### The stores at their sizes (R23, R91, R96, R157) -/

/-- A property of the stores that `StoresKept` keeps. -/
theorem keepsBlocks_of_storesKept {P : State → Prop} (hk : ∀ s t, StoresKept s t → P s → P t)
    (hc : ∀ s t, Carried s t → P s → P t) (hr : ∀ s, P s → P (holdReset s)) : KeepsBlocks P where
  same s t h hs := by
    obtain ⟨ht, -, -, -, hp, hg, hcap, ho⟩ := h
    exact hk s t (.of_eq ⟨hcap, hg, hp, by rw [ht], by rw [ho]⟩) hs
  carried := hc
  header s l hs := hk _ _ (StoresKept.headerEnd s l) hs
  headerTimer s hs _ := hk _ _ (StoresKept.missFrame s _) hs
  localTimer s hs _ := hk _ _ (StoresKept.frameStart s _ _) hs
  stop s hs := hk _ _ (StoresKept.stopInput s) hs
  active s l hs := hk _ _ (StoresKept.activeArrives s l) hs
  gap s hs := hk s _ (.of_eq ⟨rfl, rfl, rfl, rfl, rfl⟩) hs
  tick s hs := hk s _ (.of_eq ⟨rfl, rfl, rfl, rfl, rfl⟩) hs
  holdReset := hr
  releaseReset s hs := hk s _ (.of_eq ⟨rfl, rfl, rfl, rfl, rfl⟩) hs

theorem StoresKept.sized {s t : State} (h : StoresKept s t) (hs : StoresSized s) : StoresSized t := by
  obtain ⟨h1, h2, h3, h4, h5, h6⟩ := hs
  refine ⟨by rw [h.stock, h1], ?_, by rw [h.slots, h3], by rw [h.gamma, h4], by rw [h.gamma, h5], by rw [h.gamma, h6]⟩
  exact h.references.elim (fun he => he.trans h2) id

theorem defaultGamma_length : defaultGamma.length = 256 := by simp [defaultGamma]

theorem stockAllAvailable_length : stockAllAvailable.length = 512 := List.length_replicate

/-- The stores of a state whose blocks are those after reset have their sizes. -/
theorem resetBlocks_storesSized (s : State) (address : BitVec 3) : StoresSized (resetBlocks s address) :=
  ⟨stockAllAvailable_length, List.length_replicate, List.length_replicate, defaultGamma_length, defaultGamma_length,
    defaultGamma_length⟩

theorem Carried.storesSized {s t : State} (h : Carried s t) (hs : StoresSized s) : StoresSized t := by
  obtain ⟨h1, h2, h3, h4, h5, h6⟩ := hs
  cases h with
  | stock l hl => exact ⟨hl.trans h1, h2, h3, h4, h5, h6⟩
  | gamma g hr hg hb => exact ⟨h1, h2, h3, hr.trans h4, hg.trans h5, hb.trans h6⟩
  | glyphLoad i g q => exact ⟨h1, h2, by simpa using h3, h4, h5, h6⟩
  | captureFlush requests => exact ⟨h1, h2, by simpa [flushSlots_length] using h3, h4, h5, h6⟩
  | nodeResetTables => simpa [StoresSized, resetTables, stockAllAvailable_length] using ⟨h2, h3, h4, h5, h6⟩
  | nodeResetFull => simpa [StoresSized, resetFull] using resetBlocks_storesSized s s.pins.straps
  | _ => exact ⟨h1, h2, h3, h4, h5, h6⟩

theorem keepsBlocks_storesSized : KeepsBlocks StoresSized :=
  keepsBlocks_of_storesKept (fun _ _ => StoresKept.sized) (fun _ _ => Carried.storesSized)
    fun s _ => resetBlocks_storesSized s s.lane.address

/-! ### Picture memory in its form (R87) -/

/-- No command writes a pixel, and no reset clears one (R87). -/
theorem Carried.memory {s t : State} (h : Carried s t) : t.photos.memory = s.photos.memory := by
  cases h with
  | nodeResetTables => simp [resetTables]
  | nodeResetFull => simp [resetFull, resetBlocks]
  | _ => rfl

theorem keepsBlocks_memoryWf : KeepsBlocks fun s => Memory.wf s.photos.memory = true :=
  keepsBlocks_of_storesKept (fun _ _ h => h.memory) (fun _ _ h hs => by rwa [h.memory]) fun _ h => h

/-- Settles O8: picture memory, the stores of fixed size and the banks, each kept by every operation. -/
theorem stepKeepsStoresInForm : Obligations.StepKeepsStoresInForm :=
  ⟨fun _ _ => keepsBlocks_memoryWf.step, fun _ _ => keepsBlocks_storesSized.step, fun _ _ => keepsBlocks_banksSorted.step⟩

end Sys2Proof.Machine
end

section
/-! The Photo Store's directory and the capture requests: each block stands in one place (R88), each photo has its size and its
blocks (R87, R89), and each strip lies in its photo (R94, R100, R106). -/

namespace Sys2Proof.Machine

/-! ### Tables as lists, up to order -/

section
variable {α : Type} {t : Table α} {i : Nat} {a : α}

/-- A record under a new key is one more entry. -/
theorem tput_perm (h : tget t i = none) : List.Perm (tput t i a) ((i, a) :: t) := by
  induction t with
  | nil => exact .refl _
  | cons e t ih =>
    obtain ⟨k, v⟩ := e
    have hk : k ≠ i := fun hk => by simp [tget, hk] at h
    have ht : tget t i = none := by simpa [tget, hk] using h
    unfold tput
    split
    · exact .refl _
    · rw [if_neg (Ne.symm hk)]
      exact ((ih ht).cons _).trans (.swap _ _ _)

theorem tdrop_eq_self (h : ∀ e ∈ t, e.1 ≠ i) : tdrop t i = t :=
  List.filter_eq_self.2 fun e he => by simpa using h e he

/-- Of a table in order, a key's record is one entry and the rest is the table without it. -/
theorem tdrop_perm (hs : sortedKeys t = true) (h : tget t i = some a) : List.Perm t ((i, a) :: tdrop t i) := by
  induction t with
  | nil => cases h
  | cons e t ih =>
    obtain ⟨k, v⟩ := e
    obtain ⟨hk, ht⟩ := (sortedKeys_cons k v t).1 hs
    by_cases hi : k = i
    · subst hi
      obtain rfl : v = a := by simpa [tget] using h
      have hdrop : tdrop ((k, v) :: t) k = t := by
        have := tdrop_eq_self (t := t) (i := k) fun e he => Nat.ne_of_gt (hk e he)
        simpa [tdrop] using this
      rw [hdrop]
    · have hget : tget t i = some a := by simpa [tget, hi] using h
      have hdrop : tdrop ((k, v) :: t) i = (k, v) :: tdrop t i := by simp [tdrop, hi]
      rw [hdrop]
      exact ((ih ht hget).cons _).trans (.swap _ _ _)

theorem mem_tdrop {e : Nat × α} (h : e ∈ tdrop t i) : e ∈ t ∧ e.1 ≠ i := by
  simpa [tdrop] using h

end

/-! ### The partition of the blocks (R88) -/

/-- Every block a directory holds. -/
def heldBlocks (d : Table PhotoRec) : List Nat := d.flatMap fun e => e.2.blocks

theorem heldBlocks_of_blockLists {d d' : Table PhotoRec} (h : blockLists d = blockLists d') : heldBlocks d = heldBlocks d' := by
  have key : ∀ d : Table PhotoRec, heldBlocks d = (blockLists d).flatMap Prod.snd := fun d => by
    simp [heldBlocks, blockLists, List.flatMap_map]
  rw [key, key, h]

theorem StoresKept.partitioned {s t : State} (h : StoresKept s t) (hs : BlocksPartitioned s.photos) :
    BlocksPartitioned t.photos := by
  obtain ⟨hsort, hperm⟩ := hs
  have hb := h.blocks hsort
  refine ⟨(sortedKeys_of_blockLists hb).trans hsort, ?_⟩
  change List.Perm (t.photos.free ++ heldBlocks t.photos.directory) _
  rw [h.free, heldBlocks_of_blockLists hb]
  exact hperm

theorem flushPhoto_key (q : List CaptureRequest) (e : Nat × PhotoRec) : (flushPhoto q e).1 = e.1 := by
  unfold flushPhoto
  simp only
  split <;> rfl

/-- A flush leaves a photo's size and blocks. -/
theorem flushPhoto_shape (q : List CaptureRequest) (e : Nat × PhotoRec) :
    (flushPhoto q e).2.w = e.2.w ∧ (flushPhoto q e).2.h = e.2.h ∧ (flushPhoto q e).2.blocks = e.2.blocks := by
  unfold flushPhoto
  simp only
  split <;> simp

theorem blockLists_flush (q : List CaptureRequest) (d : Table PhotoRec) :
    blockLists (d.map (flushPhoto q)) = blockLists d := by
  simp [blockLists, flushPhoto_key, flushPhoto_shape]

theorem reset_blocksPartitioned (m : List Host.Cell) : BlocksPartitioned { State.reset.photos with memory := m } := by
  refine ⟨rfl, ?_⟩
  simp [State.reset]

theorem Carried.partitioned {s t : State} (h : Carried s t) (hs : BlocksPartitioned s.photos) : BlocksPartitioned t.photos := by
  obtain ⟨hsort, hperm⟩ := hs
  cases h with
  | photoOpen _ n r hnone hblocks _ =>
    refine ⟨sortedKeys_tput hsort _ r, ?_⟩
    have h1 : List.Perm (heldBlocks (tput s.photos.directory _ r)) (r.blocks ++ heldBlocks s.photos.directory) :=
      (tput_perm (a := r) hnone).flatMap_right _
    have h2 : s.photos.free.drop n ++ (s.photos.free.take n ++ heldBlocks s.photos.directory) |>.Perm
        (s.photos.free ++ heldBlocks s.photos.directory) := by
      rw [← List.append_assoc]
      refine List.Perm.append_right _ (List.perm_append_comm.trans ?_)
      rw [List.take_append_drop]
    exact ((h1.append_left _).trans (hblocks ▸ h2)).trans hperm
  | photoDrop id r events hr =>
    refine ⟨sortedKeys_tdrop hsort id, ?_⟩
    have h1 : List.Perm (heldBlocks s.photos.directory) (r.blocks ++ heldBlocks (tdrop s.photos.directory id)) :=
      (tdrop_perm hsort hr).flatMap_right _
    rw [List.append_assoc]
    exact (h1.append_left _).symm.trans hperm
  | captureFlush requests =>
    have hb := blockLists_flush requests s.photos.directory
    refine ⟨(sortedKeys_of_blockLists hb).trans hsort, ?_⟩
    change List.Perm (s.photos.free ++ heldBlocks _) _
    rw [heldBlocks_of_blockLists hb]
    exact hperm
  | nodeResetTables => simpa [resetTables] using ⟨hsort, hperm⟩
  | nodeResetFull => simpa [resetFull, resetBlocks] using reset_blocksPartitioned s.photos.memory
  | _ => exact ⟨hsort, hperm⟩

theorem keepsBlocks_blocksPartitioned : KeepsBlocks fun s => BlocksPartitioned s.photos :=
  keepsBlocks_of_storesKept (fun _ _ => StoresKept.partitioned) (fun _ _ => Carried.partitioned)
    fun s _ => reset_blocksPartitioned s.photos.memory

/-! ### Sizes, and strips in their photos (R87, R89, R94, R100, R106) -/

/-- Two records of one size with one block list. -/
def SameShape (r r' : PhotoRec) : Prop := r'.w = r.w ∧ r'.h = r.h ∧ r'.blocks = r.blocks

/-- No event of the input port opens or drops a photo, changes a photo's shape, or adds a request. -/
structure PhotosKept (s t : State) : Prop where
  records : ∀ e ∈ t.photos.directory, ∃ r, (e.1, r) ∈ s.photos.directory ∧ SameShape r e.2
  photos : ∀ id r, tget s.photos.directory id = some r → ∃ r', tget t.photos.directory id = some r' ∧ SameShape r r'
  requests : ∀ q ∈ allRequests t.capture, q ∈ allRequests s.capture

namespace PhotosKept

theorem of_eq {s t : State} (hd : t.photos.directory = s.photos.directory)
    (hc : ∀ q ∈ allRequests t.capture, q ∈ allRequests s.capture) : PhotosKept s t :=
  ⟨fun e he => ⟨e.2, hd ▸ he, rfl, rfl, rfl⟩, fun _ r hr => ⟨r, hd ▸ hr, rfl, rfl, rfl⟩, hc⟩

theorem refl (s : State) : PhotosKept s s := of_eq rfl fun _ h => h

/-- An operation that touches neither the directory nor the Capture Engine. -/
theorem of_same {s t : State} (hd : t.photos.directory = s.photos.directory) (hc : t.capture = s.capture) : PhotosKept s t :=
  of_eq hd fun _ h => hc ▸ h

theorem trans {s t u : State} (h : PhotosKept s t) (h' : PhotosKept t u) : PhotosKept s u where
  records e he := by
    obtain ⟨r, hr, h1, h2, h3⟩ := h'.records e he
    obtain ⟨r0, hr0, h4, h5, h6⟩ := h.records _ hr
    exact ⟨r0, hr0, h1.trans h4, h2.trans h5, h3.trans h6⟩
  photos id r hr := by
    obtain ⟨r1, hr1, h1, h2, h3⟩ := h.photos id r hr
    obtain ⟨r2, hr2, h4, h5, h6⟩ := h'.photos id r1 hr1
    exact ⟨r2, hr2, h4.trans h1, h5.trans h2, h6.trans h3⟩
  requests q hq := h.requests q (h'.requests q hq)

theorem setPhoto {s : State} {id : Nat} {r r' : PhotoRec} (h : tget s.photos.directory id = some r) (hs : SameShape r r') :
    PhotosKept s (s.setPhoto id r') where
  records e he := by
    obtain rfl | he := mem_tput he
    · exact ⟨r, mem_of_tget h, hs⟩
    · exact ⟨e.2, he, rfl, rfl, rfl⟩
  photos j q hj := by
    rw [State.setPhoto_photos, tget_tput]
    split
    · next hji =>
      subst hji
      obtain rfl := Option.some.inj (h.symm.trans hj)
      exact ⟨r', rfl, hs⟩
    · exact ⟨q, hj, rfl, rfl, rfl⟩
  requests _ hq := hq

end PhotosKept

theorem mem_allRequests {c : CaptureEngine} {q : CaptureRequest} :
    q ∈ allRequests c ↔ (∃ f, c.inFlight = some f ∧ f.request = q) ∨ q ∈ c.queue := by
  unfold allRequests
  split <;> simp_all [eq_comm]

theorem failRequest_photosKept (s : State) (q : CaptureRequest) (r : StripResult) : PhotosKept s (failRequest s q r) := by
  have hqueue : ∀ id, PhotosKept s
      { s with capture := { s.capture with queue := s.capture.queue.filter fun q => !isStripOf id q } } := fun id =>
    .of_eq rfl fun p hp => by
      simp only [mem_allRequests, List.mem_filter] at hp ⊢
      exact hp.imp_right And.left
  unfold failRequest
  split
  · next id _ _ _ _ =>
    simp only
    split
    · next p hp =>
      have hset := PhotosKept.setPhoto (s := { s with
        capture := { s.capture with queue := s.capture.queue.filter fun q => !isStripOf id q } }) hp
        (r' := { p with last := r, skipped := (s.capture.queue.filter (isStripOf id)).length }) ⟨rfl, rfl, rfl⟩
      exact (hqueue id).trans (hset.trans (.of_same rfl rfl))
    · exact (hqueue id).trans (.of_same rfl rfl)
  · exact .of_same rfl rfl

theorem failInFlight_photosKept (s : State) (r : StripResult) : PhotosKept s (failInFlight s r) := by
  unfold failInFlight
  split
  · exact .refl s
  · refine .trans (t := { s with capture := { s.capture with inFlight := none } }) (.of_eq rfl fun q hq => ?_)
      (failRequest_photosKept _ _ _)
    exact mem_allRequests.2 (.inr ((mem_allRequests.1 hq).resolve_left (by rintro ⟨_, ⟨⟩, -⟩)))

theorem armCapture_photosKept (s : State) : PhotosKept s (armCapture s) := by
  unfold armCapture
  split
  · next request rest w h hf hq _ =>
    split
    · refine .of_eq rfl fun q hm => ?_
      simp only [mem_allRequests, hq, hf] at hm ⊢
      simpa [eq_comm] using hm
    · refine .trans (t := { s with capture := { s.capture with queue := rest } }) (.of_eq rfl fun q hm => ?_)
        (failRequest_photosKept _ _ _)
      simp only [mem_allRequests, hq, hf] at hm ⊢
      simp_all
  · exact .refl s

theorem armIfGood_photosKept (s : State) (c : FrameCause) : PhotosKept s (armIfGood s c) := by
  cases c with
  | goodHeader n => exact armCapture_photosKept s
  | _ => exact .refl s

theorem completeCapture_photosKept (s : State) : PhotosKept s (completeCapture s) := by
  refine .of_eq rfl fun q hq => ?_
  exact mem_allRequests.2 (.inr ((mem_allRequests.1 hq).resolve_left (by rintro ⟨_, ⟨⟩, -⟩)))

theorem countLine_photosKept {s : State} {f : InFlight} (h : s.capture.inFlight = some f) : PhotosKept s (countLine s f) := by
  refine .of_eq rfl fun q hq => ?_
  simp only [countLine, mem_allRequests, h] at hq ⊢
  simpa [eq_comm] using hq

theorem stripLine_photosKept {s : State} {f : InFlight} (hf : s.capture.inFlight = some f) (id x y row rows a : Nat)
    (l : List Color) (n : Nat) : PhotosKept s (stripLine s f id x y row rows a l n) := by
  unfold stripLine
  split
  · exact .refl s
  · next r hr =>
    have hwrite : ∀ m, PhotosKept s { s with photos := { s.photos with memory := m } } := fun m => .of_same rfl rfl
    have hdone : ∀ m, PhotosKept { s with photos := { s.photos with memory := m } }
        (State.setPhoto { s with photos := { s.photos with memory := m } } id (stripDone r rows)) := fun m =>
      .setPhoto hr ⟨rfl, rfl, rfl⟩
    split
    · simp only
      split
      · exact (hwrite _).trans ((hdone _).trans (completeCapture_photosKept _))
      · exact (hwrite _).trans (countLine_photosKept hf)
    · split
      · exact failInFlight_photosKept s _
      · split
        · exact failInFlight_photosKept s _
        · exact failInFlight_photosKept s _

theorem glyphLine_photosKept {s : State} {f : InFlight} (hf : s.capture.inFlight = some f) (font slot x y w h a : Nat)
    (l : List Color) : PhotosKept s (glyphLine s f font slot x y w h a l) := by
  have hslot : ∀ g, PhotosKept s (s.setSlot font slot g) := fun g => .of_same rfl rfl
  unfold glyphLine
  split
  · simp only
    split
    · exact (hslot _).trans (completeCapture_photosKept _)
    · exact (hslot _).trans (countLine_photosKept hf)
  · exact failInFlight_photosKept s _

theorem captureLine_photosKept (s : State) (a : Nat) (l : List Color) (n : Nat) : PhotosKept s (captureLine s a l n) := by
  unfold captureLine
  split
  · exact .refl s
  · next f hf =>
    split
    · split
      · exact stripLine_photosKept hf _ _ _ _ _ _ _ _
      · exact .refl s
    · split
      · exact glyphLine_photosKept hf _ _ _ _ _ _ _ _
      · exact .refl s

theorem expireCounts_directory (s : State) : (expireCounts s).photos.directory = s.photos.directory := by
  unfold expireCounts
  split <;> rfl

theorem settleTake_directory (s : State) (n : FrameNo) (c : Bool) :
    (settleTake s n c).photos.directory = s.photos.directory := by
  unfold settleTake
  (repeat' split) <;> rfl

/-- Before a frame is begun the Capture Engine's part in it is the loss of the request in flight (R108). -/
theorem settleFrame_engine (s : State) (c : FrameCause) (b : Bool) :
    (settleFrame s c b).photos.directory = (failInFlight s .lost).photos.directory ∧
    (settleFrame s c b).capture = (failInFlight s .lost).capture := by
  unfold settleFrame
  simp [settleTake_directory, expireCounts_directory]

theorem frameStart_photosKept (s : State) (c : FrameCause) (b : Bool) : PhotosKept s (frameStart s c b) := by
  unfold frameStart
  obtain ⟨hd, hc⟩ := settleFrame_engine s c b
  refine (failInFlight_photosKept s .lost).trans (.trans (t := stepBacklight (samplePanel (beginFrame (settleFrame s c b)
    (frameKind c b)))) (.of_same (by simp [hd]) (by simp [hc])) ((armIfGood_photosKept _ c).trans ?_))
  exact .of_same (by simp) (by simp)

theorem stopInput_photosKept (s : State) : PhotosKept s (stopInput s) := by
  unfold stopInput
  split
  · exact .trans (t := closeInput s) (.of_same (by simp) (by simp)) ((failInFlight_photosKept _ .lost).trans
      (.of_same (by simp) (by simp)))
  · exact .refl s

theorem feedLine_photosKept (s : State) (f : Frame) (a : Nat) (l : List Color) : PhotosKept s (feedLine s f a l) := by
  unfold feedLine
  split
  · exact .trans (t := composeLine s _ _) (.of_same (by simp) (by simp)) (captureLine_photosKept _ _ _ _)
  · exact captureLine_photosKept _ _ _ _

theorem activeArrives_photosKept (s : State) (l : List Byte) : PhotosKept s (activeArrives s l) := by
  unfold activeArrives
  split
  · next a _ =>
    have h : PhotosKept s { s with receiver := { s.receiver with position := .lines (a + 1) } } := .of_same rfl rfl
    simp only
    split
    · split
      · exact h.trans (feedLine_photosKept _ _ _ _)
      · exact h
    · exact h
  · exact .refl s

/-- A property of the directory and the requests that `PhotosKept` keeps. -/
theorem keepsBlocks_of_photosKept {P : State → Prop} (hk : ∀ s t, PhotosKept s t → P s → P t)
    (hc : ∀ s t, Carried s t → P s → P t) (hr : ∀ s, P s → P (holdReset s)) : KeepsBlocks P where
  same s t h hs := by
    obtain ⟨-, -, -, -, hp, -, hcap, -⟩ := h
    exact hk s t (.of_same (by rw [hp]) hcap) hs
  carried := hc
  header s l hs := by
    obtain ⟨_, _, he, -⟩ | ⟨_, _, _, _, _, he, -⟩ := headerEnd_form s l
    · rw [he]
      exact hk s _ (.of_same rfl rfl) hs
    · rw [he]
      exact hk _ _ (frameStart_photosKept _ _ _) (hk s (timed s _ _ _) (.of_same rfl rfl) hs)
  headerTimer s hs hl := by
    obtain ⟨_, _, _, he, -⟩ := missFrame_form hl .headerTimer
    rw [he]
    exact hk _ _ (frameStart_photosKept _ _ _) (hk s (timed s _ _ _) (.of_same rfl rfl) hs)
  localTimer s hs _ := hk _ _ (frameStart_photosKept _ _ _) hs
  stop s hs := hk _ _ (stopInput_photosKept s) hs
  active s l hs := hk _ _ (activeArrives_photosKept s l) hs
  gap s hs := hk s _ (.of_same rfl rfl) hs
  tick s hs := hk s _ (.of_same rfl rfl) hs
  holdReset := hr
  releaseReset s hs := hk s _ (.of_same rfl rfl) hs

theorem PhotoSized.congr {r r' : PhotoRec} (h : SameShape r r') (hr : PhotoSized r) : PhotoSized r' := by
  obtain ⟨hw, hh, hb⟩ := h
  unfold PhotoSized
  rwa [hw, hh, hb]

theorem PhotosKept.sized {s t : State} (h : PhotosKept s t) (hs : PhotosSized s.photos) : PhotosSized t.photos :=
  fun e he => by
    obtain ⟨r, hr, hsame⟩ := h.records e he
    exact (hs _ hr).congr hsame

theorem Carried.photosSized {s t : State} (h : Carried s t) (hs : PhotosSized s.photos) : PhotosSized t.photos := by
  cases h with
  | photoOpen id n r _ _ hsz => exact fun e he => (mem_tput he).elim (fun h => h ▸ hsz) (hs e)
  | photoDrop id r events _ => exact fun e he => hs e (mem_tdrop he).1
  | captureFlush requests =>
    intro e he
    obtain ⟨e0, he0, rfl⟩ := List.mem_map.1 he
    exact (hs e0 he0).congr (flushPhoto_shape requests e0)
  | nodeResetTables => simpa [resetTables] using hs
  | nodeResetFull => simp [PhotosSized, resetFull, resetBlocks, State.reset]
  | _ => exact hs

theorem keepsBlocks_photosSized : KeepsBlocks fun s => PhotosSized s.photos :=
  keepsBlocks_of_photosKept (fun _ _ => PhotosKept.sized) (fun _ _ => Carried.photosSized)
    fun _ _ => by simp [PhotosSized, holdReset, resetBlocks, State.reset]

/-- A strip stays in its photo where every photo keeps its record and its shape. -/
theorem StripInPhoto.of_photos {d d' : Table PhotoRec} {q : CaptureRequest}
    (hd : ∀ id r, isStripOf id q = true → tget d id = some r → ∃ r', tget d' id = some r' ∧ r'.h = r.h)
    (h : StripInPhoto d q) : StripInPhoto d' q := by
  rintro id x y row rows rfl
  obtain ⟨hrows, r, hr, hle⟩ := h id x y row rows rfl
  obtain ⟨r', hr', hh⟩ := hd id r (by simp [isStripOf]) hr
  exact ⟨hrows, r', hr', hh ▸ hle⟩

theorem PhotosKept.strips {s t : State} (h : PhotosKept s t) (hs : StripsInPhotos s) : StripsInPhotos t := fun q hq =>
  (hs q (h.requests q hq)).of_photos fun id r _ hr => by
    obtain ⟨r', hr', -, hh, -⟩ := h.photos id r hr
    exact ⟨r', hr', hh⟩

/-- The requests that are left where a photo's strips end are requests that are no strips of it (R94). -/
theorem mem_allRequests_dropStrips {c : CaptureEngine} {id : Nat} {q : CaptureRequest}
    (h : q ∈ allRequests (dropStrips c id)) : q ∈ allRequests c ∧ isStripOf id q = false := by
  simp only [mem_allRequests, dropStrips] at h ⊢
  obtain ⟨f, hf, rfl⟩ | h := h
  · split at hf
    · cases hf
    · next hfly =>
      refine ⟨.inl ⟨f, hf, rfl⟩, ?_⟩
      simpa [flyingStrip, hf] using hfly
  · simpa using ⟨.inr (List.mem_filter.1 h).1, by simpa using (List.mem_filter.1 h).2⟩

theorem allRequests_append (c : CaptureEngine) (q : CaptureRequest) :
    allRequests { c with queue := c.queue ++ [q] } = allRequests c ++ [q] := by
  simp [allRequests]

theorem StripsInPhotos.append {s t : State} (hs : StripsInPhotos s) {q : CaptureRequest}
    (hq : StripInPhoto s.photos.directory q) (hd : t.photos.directory = s.photos.directory)
    (hc : t.capture = { s.capture with queue := s.capture.queue ++ [q] }) : StripsInPhotos t := by
  intro p hp
  rw [hc, allRequests_append, List.mem_append, List.mem_singleton] at hp
  rw [hd]
  exact hp.elim (hs p) fun hpq => hpq ▸ hq

theorem Carried.strips {s t : State} (h : Carried s t) (hs : StripsInPhotos s) : StripsInPhotos t := by
  cases h with
  | photoOpen id n r hnone _ _ =>
    refine fun q hq => (hs q hq).of_photos fun j p _ hj => ⟨p, ?_, rfl⟩
    rw [tget_tput, if_neg (by rintro rfl; rw [hnone] at hj; cases hj), hj]
  | photoDrop id r events hr =>
    intro q hq
    obtain ⟨hq, hno⟩ := mem_allRequests_dropStrips hq
    refine (hs q hq).of_photos fun j p hjq hj => ⟨p, ?_, rfl⟩
    rw [tget_tdrop, if_neg (by rintro rfl; rw [hno] at hjq; cases hjq), hj]
  | capture q _ hq => exact hs.append hq rfl rfl
  | glyphLoad i g q _ hq => exact hs.append hq rfl rfl
  | captureFlush => exact fun q hq => by simp [allRequests] at hq
  | nodeResetTables => simpa [StripsInPhotos, resetTables] using hs
  | nodeResetFull => simp [StripsInPhotos, resetFull, resetBlocks, State.reset, allRequests]
  | _ => exact hs

theorem keepsBlocks_stripsInPhotos : KeepsBlocks StripsInPhotos :=
  keepsBlocks_of_photosKept (fun _ _ => PhotosKept.strips) (fun _ _ => Carried.strips)
    fun _ _ => by simp [StripsInPhotos, holdReset, resetBlocks, State.reset, allRequests]

/-- Settles O7: the partition by `StoresKept`, the sizes and the strips by `PhotosKept`. -/
theorem stepKeepsBlockPartition : Obligations.StepKeepsBlockPartition :=
  ⟨fun _ _ => keepsBlocks_blocksPartitioned.step, fun _ _ => keepsBlocks_photosSized.step,
    fun _ _ => keepsBlocks_stripsInPhotos.step⟩

end Sys2Proof.Machine
end

section
/-! Where a packet goes and what it leaves of the frame in progress: the target test and the answers (R170–R174), and the frame that
stands while packets are taken (R51, R192). -/

namespace Sys2Proof.Machine

/-! ### The frame stands (R51) -/

/-- `t` has the frame in progress, the timing, the panel and the packets that wait as `s` has them. -/
structure FrameStands (s t : State) : Prop where
  frame : t.frame = s.frame
  kept : t.kept = s.kept
  timing : t.timing = s.timing
  receiver : t.receiver = s.receiver
  panel : t.output.panel = s.output.panel
  level : t.output.level = s.output.level
  debounce : t.output.debounce = s.output.debounce
  intake : t.intake = s.intake

theorem FrameStands.refl (s : State) : FrameStands s s := ⟨rfl, rfl, rfl, rfl, rfl, rfl, rfl, rfl⟩

theorem FrameStands.raiseIf {s t : State} (h : FrameStands s t) (c : Bool) (e : Event) : FrameStands s (t.raiseIf c e) := by
  obtain ⟨h1, h2, h3, h4, h5, h6, h7, h8⟩ := h
  constructor <;> simp [*]

theorem stagedEdit_stands (s : State) (ok : Bool) (e : Option (Bank → Option Bank)) :
    FrameStands s (stagedEdit s ok e).state := by
  unfold stagedEdit
  split
  · exact .refl s
  · split
    · exact .refl s
    · split
      · exact .refl s
      · split
        · exact .refl s
        · simp only [done, commitEdit_eq]
          constructor <;> rfl

theorem carryTake_stands (p : List Byte) (s : State) : FrameStands s (carryTake p s).state := by
  unfold carryTake
  (repeat' split) <;> first | exact .refl s | skip
  simp only [doneWith, takeAborts_eq]
  constructor <;> rfl

theorem carryStageCopy_stands (p : List Byte) (s : State) : FrameStands s (carryStageCopy p s).state := by
  unfold carryStageCopy
  (repeat' split) <;> first | exact .refl s | skip
  simp only [done, abortAudit_eq]
  constructor <;> rfl

theorem resetTables_stands (s : State) : FrameStands s (resetTables s) :=
  FrameStands.raiseIf (by constructor <;> rfl) _ _

/-- The command of a packet that is no NODE_RESET FULL leaves the frame in progress. -/
theorem carryOut_stands {code : Byte} {p : List Byte} (h : ¬ (code = 0x41 ∧ p = [1])) (s : State) :
    FrameStands s (carryOut code p s).state := by
  unfold carryOut
  split
  case h_1 | h_2 | h_3 | h_4 | h_5 | h_6 | h_7 | h_8 => exact stagedEdit_stands _ _ _
  case h_9 => exact carryStageCopy_stands p s
  case h_11 => exact carryTake_stands p s
  case h_10 | h_12 | h_13 | h_14 | h_15 | h_16 | h_17 | h_18 | h_19 | h_21 | h_22 | h_24 | h_26 =>
    simp only [carryAudit, carryTakeCancel, carryStock, carryForce, carryHighlight, carryBacklight, carryConfigPut,
      carryGammaPut, carryPhotoOpen, carryCapture, carryGlyphLoad, carryQuery, carryRestrap]
    (repeat' split) <;> constructor <;> rfl
  case h_20 =>
    unfold carryPhotoDrop
    split
    · exact .refl s
    · split
      · exact .refl s
      · split
        · exact .refl s
        · exact .raiseIf (by constructor <;> rfl) _ _
  case h_23 =>
    unfold carryCaptureFlush
    split
    · exact .refl s
    · exact .raiseIf (by constructor <;> rfl) _ _
  case h_25 hcode =>
    unfold carryNodeReset
    split
    · exact .refl s
    · next hlen =>
      split
      · exact resetTables_stands s
      · next hscope =>
        refine absurd ⟨BitVec.eq_of_toNat_eq hcode, ?_⟩ h
        obtain ⟨b, rfl⟩ := List.length_eq_one_iff.1 (not_not.1 hlen)
        exact congrArg (· :: []) (BitVec.eq_of_toNat_eq hscope)
      · exact .refl s
  case h_27 => exact .refl s

/-- NODE_RESET FULL, taken, leaves no frame in progress (R192). -/
theorem carryOut_nodeResetFull (s : State) : (carryOut 0x41 [1] s).state = resetFull s := rfl

/-- No frame is in progress and every block behind the ports is as after reset, but for picture memory. -/
structure FullyReset (t : State) : Prop where
  frame : t.frame = none
  kept : t.kept = none
  timing : t.timing = State.reset.timing
  receiver : t.receiver = State.reset.receiver
  output : t.output = State.reset.output
  intake : t.intake = []
  queue : t.lane.queue = []

theorem resetFull_fullyReset (s : State) : FullyReset (resetFull s) := by
  constructor <;> simp [resetFull, resetBlocks, State.raiseIf_lane_queue]
  all_goals rfl

/-- What stands while packets are taken: the frame, with packets waiting that did wait; or a NODE_RESET FULL of them was taken. -/
def PacketsTaken (s t : State) : Prop :=
  (FrameStands { s with intake := t.intake } t ∧ ∀ q ∈ t.intake, q ∈ s.intake) ∨
  ((∃ q ∈ s.intake, q.code = 0x41 ∧ q.payload = [1]) ∧ FullyReset t)

theorem closing_stands {s : State} {t : State} (k : Packet) (r : Taken) (h : FrameStands s r.state) (ht : t = closing s k r) :
    FrameStands s t := by
  subst ht
  unfold closing
  split
  · obtain ⟨h1, h2, h3, h4, h5, h6, h7, h8⟩ := h
    exact ⟨h1, h2, h3, h4, h5, h6, h7, h8⟩
  · exact h

theorem process_packetsTaken (s : State) : PacketsTaken s s.process := by
  refine takePackets_induct (P := PacketsTaken s) (fun u f k rest hu hf hq _ => ?_) _ s (.inl ⟨.refl s, fun _ h => h⟩)
  obtain ⟨hstand, hmem⟩ | ⟨-, hr⟩ := hu
  · by_cases hk : k.code = 0x41 ∧ k.payload = [1]
    · refine .inr ⟨⟨k, hmem k (by simp [hq]), hk⟩, ?_⟩
      rw [takePacket_eq, closing_unanswered (.inl hk.1), hk.1, hk.2, carryOut_nodeResetFull]
      exact resetFull_fullyReset _
    · obtain ⟨h1, h2, h3, h4, h5, h6, h7, h8⟩ :=
        closing_stands k _ (carryOut_stands hk { u with intake := rest }) (takePacket_eq _ _)
      refine .inl ⟨⟨h1.trans hstand.frame, h2.trans hstand.kept, h3.trans hstand.timing, h4.trans hstand.receiver,
        h5.trans hstand.panel, h6.trans hstand.level, h7.trans hstand.debounce, rfl⟩, ?_⟩
      rw [h8]
      exact fun q hm => hmem q (by rw [hq]; exact List.mem_cons_of_mem _ hm)
  · rw [hr.frame] at hf
    cases hf

theorem process_memory (s : State) : s.process.photos.memory = s.photos.memory := by
  refine takePackets_induct (P := fun u => u.photos.memory = s.photos.memory) (fun u f k rest hu _ _ _ => ?_) _ s rfl
  exact takePacket_keeps (P := fun u => u.photos.memory = s.photos.memory) (fun _ _ h => h)
    (fun _ _ hc h => hc.memory.trans h) (s := { u with intake := rest }) hu k

theorem joinIntake_memory (s : State) (k : Packet) : (joinIntake s k).photos = s.photos := by simp

/-- Settles O10: a command that is no NODE_RESET FULL leaves the frame (`carryOut_stands`), and none writes a pixel
(`Carried.memory`). -/
theorem packetsLeaveFrameInProgress : Obligations.PacketsLeaveFrameInProgress := by
  intro i k s t hi he
  rw [exec_packetOf hi] at he
  cases he
  split
  · exact ⟨rfl, rfl, rfl, rfl, .inl ⟨rfl, rfl, rfl, rfl, rfl, rfl, rfl⟩⟩
  · have hout : (packetArrives (entered s i) k).out = noOutputs := by simp [entered]
    refine ⟨?_, by rw [hout]; rfl, by rw [hout]; rfl, by rw [hout]; rfl, ?_⟩
    · unfold packetArrives
      split
      · rw [process_memory, joinIntake_memory]
        rfl
      · rfl
    · unfold packetArrives
      split
      · have hjoin : ∀ q ∈ (joinIntake (entered s i) k).intake, q = k ∨ q ∈ s.intake := by
          unfold joinIntake
          split
          · simp [entered, or_comm]
          · simpa [entered] using fun q hq => .inr hq
        obtain ⟨hs, -⟩ | ⟨⟨q, hq, hcode⟩, hr⟩ := process_packetsTaken (joinIntake (entered s i) k)
        · exact .inl ⟨by simpa [entered] using hs.frame, by simpa [entered] using hs.kept,
            by simpa [entered] using hs.timing, by simpa [entered] using hs.receiver, by simpa [entered] using hs.panel,
            by simpa [entered] using hs.level, by simpa [entered] using hs.debounce⟩
        · exact .inr ⟨⟨q, hjoin q hq, hcode⟩, hr.frame, hr.kept, hr.timing, hr.receiver, hr.output, hr.intake, hr.queue⟩
      · exact .inl ⟨rfl, rfl, rfl, rfl, rfl, rfl, rfl⟩

/-! ### Addressing and answers (R170, R173) -/

/-- A node field names the node exactly where it holds the node's address. -/
theorem eq_addressField_iff (s : State) (x : BitVec 4) : x = addressField s ↔ x.toNat = s.lane.address.toNat := by
  have h := s.lane.address.isLt
  rw [← BitVec.toNat_inj, addressField, BitVec.toNat_setWidth, Nat.mod_eq_of_lt (by omega)]

theorem answered_iff (s : State) (k : Packet) :
    answered s k = true ↔
      k.code ≠ 0x41 ∧ k.code ≠ 0x42 ∧
      ((k.head.target ≠ 15 ∧ k.head.reply ≠ 15) ∨
        (k.head.target = 15 ∧ k.head.reply.toNat = s.lane.address.toNat)) := by
  rw [← eq_addressField_iff]
  unfold answered codeNodeReset codeRestrap targetAll replyNone
  by_cases hc : k.code = 0x41 ∨ k.code = 0x42
  · rw [if_pos hc]
    simp only [Bool.false_eq_true, false_iff]
    tauto
  · rw [if_neg hc]
    by_cases ht : k.head.target = 15
    · rw [if_pos ht, decide_eq_true_iff]
      tauto
    · rw [if_neg ht, decide_eq_true_iff]
      tauto

theorem targeted_iff (s : State) (h : PacketHead) :
    targeted s h = true ↔
      h.target = 15 ∨ (h.target.toNat = s.lane.address.toNat ∧ s.lane.conflict = false) := by
  rw [← eq_addressField_iff]
  simp only [targeted, Bool.or_eq_true, Bool.and_eq_true, decide_eq_true_iff, Bool.not_eq_true']
  rfl

/-- Before the first frame start, and behind a stalled head, the Command Processor takes nothing. -/
theorem process_barred {s : State}
    (h : s.frame = none ∨ ∃ k rest, s.intake = k :: rest ∧ answered s k = true ∧ 8 ≤ s.lane.queue.length) :
    s.process = s := by
  obtain hf | ⟨k, rest, hk, ha, hq⟩ := h
  · exact takePackets_noFrame _ hf
  · exact takePackets_stalled _ hk ha ((replyFull_iff s).2 hq)

/-- Settles O13: the target test and the answers, and a packet the Command Processor may not take joins the tail or is
discarded (R171). -/
theorem packetsFollowTheirAddressing : Obligations.PacketsFollowTheirAddressing := by
  refine ⟨fun s k => ⟨answered_iff s k, targeted_iff s k.head⟩, fun i k s hi hr => ?_⟩
  rw [exec_packetOf hi, hr, if_neg Bool.false_ne_true]
  refine ⟨fun ht => ?_, fun ht hbar => ?_⟩
  · rw [packetArrives, targeted_entered, ht, if_neg Bool.false_ne_true]
  · rw [packetArrives, targeted_entered, ht, if_pos rfl]
    unfold joinIntake
    by_cases hl : s.intake.length < 16
    · have hl' : (entered s i).intake.length < Config.intakeCapacity := hl
      rw [if_pos hl, if_pos hl', process_barred]
      · rfl
      · obtain hf | ⟨q, rest, hq, ha, hlen⟩ := hbar
        · exact .inl hf
        · exact .inr ⟨q, rest ++ [k], by simp [entered, hq], ha, hlen⟩
    · have hl' : ¬ (entered s i).intake.length < Config.intakeCapacity := hl
      rw [if_neg hl, if_neg hl', process_barred (s := (entered s i).raise .intakeOverrun) hbar]

end Sys2Proof.Machine
end

section
/-! The layouts of chapter 11 read back: packets, header lines and reply records (sections 11.2 to 11.5), item and tile records
(section 11.7), and what a reply record carries (R175–R177). Each field is written as bytes whose reading is the field
(`put16_bytes` and the like); a layout of fixed length is then a list of bytes, read at its offsets. -/

namespace Sys2Proof.Machine

/-! ### Fields as bytes -/

theorem put8_bytes {n : Nat} (h : n < 256) : ∃ a : Byte, put8 n = [a] ∧ a.toNat = n :=
  ⟨_, rfl, by simp; omega⟩

theorem put16_bytes {n : Nat} (h : n < 65536) : ∃ a b : Byte, put16 n = [a, b] ∧ a.toNat * 256 + b.toNat = n :=
  ⟨_, _, rfl, by simp; omega⟩

theorem put24_bytes {n : Nat} (h : n < 16777216) :
    ∃ a b c : Byte, put24 n = [a, b, c] ∧ (a.toNat * 256 + b.toNat) * 256 + c.toNat = n :=
  ⟨_, _, _, rfl, by simp; omega⟩

theorem putS16_bytes {i : Int} (h : -32768 ≤ i ∧ i < 32768) :
    ∃ a b : Byte, putS16 i = [a, b] ∧
      (if a.toNat * 256 + b.toNat < 32768 then ((a.toNat * 256 + b.toNat : Nat) : Int)
        else ((a.toNat * 256 + b.toNat : Nat) : Int) - 65536) = i := by
  obtain ⟨a, b, hab, hn⟩ := put16_bytes (n := (i % 65536).toNat) (by omega)
  refine ⟨a, b, hab, ?_⟩
  rw [hn]
  split <;> omega

/-- A byte of a list past the list put before it. -/
theorem byteAt_append (l m : List Byte) (j : Nat) : byteAt (l ++ m) (l.length + j) = byteAt m j := by
  simp [byteAt, List.getD, List.getElem?_append_right]

theorem u8_append (l m : List Byte) (j : Nat) : u8 (l ++ m) (l.length + j) = u8 m j := by rw [u8, byteAt_append]; rfl

theorem u16_append (l m : List Byte) (j : Nat) : u16 (l ++ m) (l.length + j) = u16 m j := by
  rw [u16, Nat.add_assoc, u8_append, u8_append]
  rfl

/-- Two bytes side by side are a word of sixteen bits. -/
theorem append_toNat (a b : Byte) : (a ++ b).toNat = a.toNat * 256 + b.toNat := by
  rw [BitVec.toNat_append, ← Nat.shiftLeft_add_eq_or_of_lt b.isLt, Nat.shiftLeft_eq]

/-! ### The packet, the header line and the record (sections 11.2 to 11.5) -/

/-- The bits of two words side by side, above the second word. -/
theorem append_extractLsb'_high {n m : Nat} (x : BitVec n) (y : BitVec m) (i k : Nat) :
    (x ++ y).extractLsb' (m + i) k = x.extractLsb' i k := by
  ext j hj
  rw [BitVec.getElem_extractLsb', BitVec.getElem_extractLsb', Nat.add_assoc, BitVec.getLsbD_append, if_neg (by omega),
    Nat.add_sub_cancel_left]

/-- The bits of two words side by side, within the second word. -/
theorem append_extractLsb'_low {n m : Nat} (x : BitVec n) (y : BitVec m) {i k : Nat} (h : i + k ≤ m) :
    (x ++ y).extractLsb' i k = y.extractLsb' i k := by
  ext j hj
  rw [BitVec.getElem_extractLsb', BitVec.getElem_extractLsb', BitVec.getLsbD_append, if_pos (by omega)]

theorem extract_target (x y : BitVec 4) : (x ++ y).extractLsb' 4 4 = x :=
  (append_extractLsb'_high x y 0 4).trans BitVec.extractLsb'_eq_self

theorem extract_reply (x y : BitVec 4) : (x ++ y).extractLsb' 0 4 = y :=
  (append_extractLsb'_low x y le_rfl).trans BitVec.extractLsb'_eq_self

theorem parsePacket_encodePacket (k : Packet) (padding : List Byte) (h : k.payload.length ≤ 240) :
    parsePacket (encodePacket k ++ padding) = some k := by
  obtain ⟨c, d, hc, hcrc⟩ := put16_bytes (crc16 (packetBody k)).isLt
  obtain ⟨n, hn, hlen⟩ := put8_bytes (n := k.payload.length) (by omega)
  obtain rfl : BitVec.ofNat 8 k.payload.length = n := List.singleton_inj.1 hn
  have hbytes : encodePacket k ++ padding = packetBody k ++ (c :: d :: padding) := by
    rw [encodePacket, hc, List.append_assoc]
    rfl
  have hbody : (packetBody k).length = 4 + k.payload.length := by
    simp only [packetBody, List.length_append, List.length_cons, List.length_nil]
  have hat3 : u8 (packetBody k ++ (c :: d :: padding)) 3 = k.payload.length := hlen
  have hcheck : u16 (packetBody k ++ (c :: d :: padding)) (4 + k.payload.length) = (crc16 (packetBody k)).toNat := by
    rw [← hbody]
    exact (u16_append _ _ 0).trans hcrc
  rw [hbytes, parsePacket, hat3, hcheck, if_neg, ← hbody, List.take_left, if_neg (not_not.2 rfl)]
  · have htail : ((packetBody k ++ (c :: d :: padding)).drop 4).take k.payload.length = k.payload := by
      change (k.payload ++ (c :: d :: padding)).take k.payload.length = k.payload
      exact List.take_left
    have h0 : byteAt (packetBody k ++ (c :: d :: padding)) 0 = k.head.target ++ k.head.reply := rfl
    have h1 : byteAt (packetBody k ++ (c :: d :: padding)) 1 = k.head.tag := rfl
    have h2 : byteAt (packetBody k ++ (c :: d :: padding)) 2 = k.code := rfl
    rw [htail, h0, h1, h2, extract_target, extract_reply]
  · rw [List.length_append, hbody]
    simp only [List.length_cons]
    omega

theorem parseHeader_encodeHeader (h : Header) (padding : List Byte) (hh : h.hour < 256) (hm : h.minute < 256)
    (hs : h.second < 256) (hw : 1 ≤ h.width ∧ h.width ≤ 8192) (hht : 1 ≤ h.height ∧ h.height ≤ 4096) :
    parseHeader (encodeHeader h ++ padding) = some h := by
  obtain ⟨n0, n1, hn, en⟩ := put16_bytes h.number.isLt
  obtain ⟨b2, h2, e2⟩ := put8_bytes hh
  obtain ⟨b3, h3, e3⟩ := put8_bytes hm
  obtain ⟨b4, h4, e4⟩ := put8_bytes hs
  obtain ⟨w0, w1, hwb, ew⟩ := put16_bytes (n := h.width) (by omega)
  obtain ⟨y0, y1, hyb, ey⟩ := put16_bytes (n := h.height) (by omega)
  have hbody : headerBody h = [n0, n1, b2, b3, b4, w0, w1, y0, y1] := by
    simp only [headerBody, hn, h2, h3, h4, hwb, hyb, List.cons_append, List.nil_append]
  obtain ⟨c, d, hc, hcrc⟩ := put16_bytes (crc16 (headerBody h)).isLt
  have hbytes : encodeHeader h ++ padding =
      n0 :: n1 :: b2 :: b3 :: b4 :: w0 :: w1 :: y0 :: y1 :: c :: d :: padding := by
    rw [encodeHeader, hc, hbody]
    rfl
  rw [hbody] at hcrc
  simp only [hbytes, parseHeader, List.length_cons, u16, u8, byteAt, List.getD_cons_succ, List.getD_cons_zero,
    List.take_succ_cons, List.take_zero, hcrc, en, e2, e3, e4, ew, ey]
  rw [if_neg (by omega), if_neg (by simp), if_neg (by omega)]
  simp

theorem put24Bits_join (v : BitVec 24) : v.extractLsb' 16 8 ++ v.extractLsb' 8 8 ++ v.extractLsb' 0 8 = v := by
  ext i hi
  simp only [BitVec.getElem_append, BitVec.getElem_extractLsb']
  (repeat' split) <;> (rw [← BitVec.getLsbD_eq_getElem]; congr 1; omega)

theorem parseRecord_encodeRecord (r : ReplyRecord) (hl : r.data.length ≤ 240) (hcrc : r.crc = crc16 (recordBody r)) :
    parseRecord (encodeRecord r) = some r := by
  obtain ⟨c, d, hc, ec⟩ := put16_bytes r.crc.isLt
  obtain ⟨n, hn, hlen⟩ := put8_bytes (n := r.data.length) (by omega)
  obtain rfl : BitVec.ofNat 8 r.data.length = n := List.singleton_inj.1 hn
  have hbytes : encodeRecord r = recordBody r ++ [c, d] := by rw [encodeRecord, hc]
  have hbody : (recordBody r).length = 8 + r.data.length := by
    simp only [recordBody, put24Bits, List.length_append, List.length_cons, List.length_nil]
  have hat7 : u8 (recordBody r ++ [c, d]) 7 = r.data.length := hlen
  have hcheck : u16 (recordBody r ++ [c, d]) (8 + r.data.length) = (crc16 (recordBody r)).toNat := by
    rw [← hbody, ← hcrc]
    exact (u16_append _ _ 0).trans ec
  rw [hbytes, parseRecord, hat7, hcheck, if_neg, ← hbody, List.take_left, if_neg (not_not.2 rfl)]
  · have htail : ((recordBody r ++ [c, d]).drop 8).take r.data.length = r.data := by
      change (r.data ++ [c, d]).take r.data.length = r.data
      exact List.take_left
    have hc0 : byteAt (recordBody r ++ [c, d]) (recordBody r).length = c := byteAt_append _ _ 0
    have hd0 : byteAt (recordBody r ++ [c, d]) (9 + r.data.length) = d := by
      rw [show 9 + r.data.length = (recordBody r).length + 1 by omega]
      exact byteAt_append _ _ 1
    have hjoin : c ++ d = r.crc := BitVec.eq_of_toNat_eq ((append_toNat c d).trans ec)
    have hsum : byteAt (recordBody r ++ [c, d]) 4 ++ byteAt (recordBody r ++ [c, d]) 5 ++
        byteAt (recordBody r ++ [c, d]) 6 = r.summary := put24Bits_join r.summary
    have h0 : byteAt (recordBody r ++ [c, d]) 0 = r.source := rfl
    have h1 : byteAt (recordBody r ++ [c, d]) 1 = r.tag := rfl
    have h2 : byteAt (recordBody r ++ [c, d]) 2 = r.command := rfl
    have h3 : byteAt (recordBody r ++ [c, d]) 3 = r.result := rfl
    rw [htail, hc0, hd0, hjoin, hsum, h0, h1, h2, h3]
  · rw [List.length_append, hbody]
    simp only [List.length_cons, List.length_nil]
    omega

/-- Settles O11, layout by layout. -/
theorem packetHeaderAndRecordReadBackAsSent : Obligations.PacketHeaderAndRecordReadBackAsSent :=
  ⟨parsePacket_encodePacket, fun h padding hh hm hs hw hw' hy hy' =>
    parseHeader_encodeHeader h padding hh hm hs (And.intro hw hw') (And.intro hy hy'), parseRecord_encodeRecord⟩

/-! ### What a reply record carries (R175–R177) -/

/-- A bit but the last of a word with one bit put at its end. -/
theorem append_bit_succ {n : Nat} (x : BitVec n) (y : BitVec 1) (i : Nat) : (x ++ y).getLsbD (i + 1) = x.getLsbD i := by
  rw [BitVec.getLsbD_append, if_neg (by omega), Nat.add_sub_cancel]

theorem append_bit_zero {n : Nat} (x : BitVec n) (b : Bool) : (x ++ BitVec.ofBool b).getLsbD 0 = b := by
  rw [BitVec.getLsbD_append, if_pos Nat.one_pos]
  cases b <;> rfl

theorem ofBool_bit (b : Bool) : (BitVec.ofBool b).getLsbD 0 = b := by cases b <;> rfl

/-- The ten event bits stand in the order of section 11.4, PACKET_CRC first. -/
theorem eventBits_getLsbD (e : EventSet) :
    (eventBits e).getLsbD 9 = e.packetCrc ∧ (eventBits e).getLsbD 8 = e.intakeOverrun ∧
    (eventBits e).getLsbD 7 = e.returnCrc ∧ (eventBits e).getLsbD 6 = e.linkChanged ∧
    (eventBits e).getLsbD 5 = e.panelChanged ∧ (eventBits e).getLsbD 4 = e.takeDone ∧
    (eventBits e).getLsbD 3 = e.takeCancelled ∧ (eventBits e).getLsbD 2 = e.auditDone ∧
    (eventBits e).getLsbD 1 = e.captureDone ∧ (eventBits e).getLsbD 0 = e.captureFailed := by
  refine ⟨?first, ?_, ?_, ?_, ?_, ?_, ?_, ?_, ?_, ?_⟩
  all_goals repeat refine (append_bit_succ _ _ _).trans ?_
  case first => exact ofBool_bit _
  all_goals exact append_bit_zero _ _

theorem summary_event (s : State) (n : Nat) : (summary s).getLsbD (14 + n) = (eventBits s.lane.events).getLsbD n := by
  rw [summary, BitVec.getLsbD_append, if_neg (by omega), Nat.add_sub_cancel_left]

/-- The levels above the four low bits of the summary, which are 0 (R177). -/
def levelWord (s : State) : BitVec 10 :=
  BitVec.ofNat 2 (linkCode s.timing.link) ++ BitVec.ofNat 3 (stagedCode s.tables.stagedState) ++
  BitVec.ofBool (s.output.panel = .present) ++ BitVec.ofBool s.lane.conflict ++ BitVec.ofBool (overflowSeen s) ++
  BitVec.ofBool (budgetShortSeen s) ++ BitVec.ofBool s.tables.pendingTake.isSome

theorem levelBits_eq (s : State) : levelBits s = levelWord s ++ (0 : BitVec 4) := rfl

theorem summary_level (s : State) {n : Nat} (h : n < 10) : (summary s).getLsbD (4 + n) = (levelWord s).getLsbD n := by
  rw [summary, BitVec.getLsbD_append, if_pos (by omega), levelBits_eq, BitVec.getLsbD_append, if_neg (by omega),
    Nat.add_sub_cancel_left]

theorem summary_levels (s : State) {i k : Nat} (h : i + k ≤ 10) :
    (summary s).extractLsb' (4 + i) k = (levelWord s).extractLsb' i k := by
  rw [summary, append_extractLsb'_low _ _ (by omega), levelBits_eq, append_extractLsb'_high]

/-- The level bits stand in the order of section 11.4. -/
theorem levelWord_getLsbD (s : State) :
    (levelWord s).getLsbD 4 = decide (s.output.panel = .present) ∧ (levelWord s).getLsbD 3 = s.lane.conflict ∧
    (levelWord s).getLsbD 2 = overflowSeen s ∧ (levelWord s).getLsbD 1 = budgetShortSeen s ∧
    (levelWord s).getLsbD 0 = s.tables.pendingTake.isSome := by
  refine ⟨?_, ?_, ?_, ?_, ?_⟩
  all_goals repeat refine (append_bit_succ _ (BitVec.ofBool _) _).trans ?_
  all_goals exact append_bit_zero _ _

/-- Above the five level bits stand the link state and the staged state. -/
theorem levelWord_codes (s : State) (i k : Nat) :
    (levelWord s).extractLsb' (5 + i) k =
      (BitVec.ofNat 2 (linkCode s.timing.link) ++ BitVec.ofNat 3 (stagedCode s.tables.stagedState)).extractLsb' i k := by
  have drop : ∀ {n : Nat} (x : BitVec n) (b : Bool) (j : Nat),
      (x ++ BitVec.ofBool b).extractLsb' (j + 1) k = x.extractLsb' j k := fun x b j =>
    Nat.add_comm j 1 ▸ append_extractLsb'_high x (BitVec.ofBool b) j k
  rw [Nat.add_comm 5 i]
  exact (drop _ _ (i + 4)).trans ((drop _ _ (i + 3)).trans ((drop _ _ (i + 2)).trans ((drop _ _ (i + 1)).trans
    (drop _ _ i))))

theorem levelWord_link (s : State) : ((levelWord s).extractLsb' 8 2).toNat = linkCode s.timing.link := by
  have h : (levelWord s).extractLsb' 8 2 = BitVec.ofNat 2 (linkCode s.timing.link) :=
    (levelWord_codes s 3 2).trans ((append_extractLsb'_high _ _ 0 2).trans BitVec.extractLsb'_eq_self)
  rw [h]
  cases s.timing.link <;> rfl

theorem levelWord_staged (s : State) : ((levelWord s).extractLsb' 5 3).toNat = stagedCode s.tables.stagedState := by
  have h : (levelWord s).extractLsb' 5 3 = BitVec.ofNat 3 (stagedCode s.tables.stagedState) :=
    (levelWord_codes s 0 3).trans ((append_extractLsb'_low _ _ le_rfl).trans BitVec.extractLsb'_eq_self)
  rw [h]
  cases s.tables.stagedState <;> rfl

theorem recordBody_crc (r : ReplyRecord) (c : BitVec 16) : recordBody { r with crc := c } = recordBody r := rfl

theorem buildRecord_crc (k : Packet) (t : Taken) : (buildRecord k t).crc = crc16 (recordBody (buildRecord k t)) := by
  rw [buildRecord, recordBody_crc]

/-- Settles O14: the record is `buildRecord`'s, its CRC is the one computed over it, and its summary is read bit by bit. -/
theorem repliesCarryEventsAndLevels : Obligations.RepliesCarryEventsAndLevels := by
  intro s k t ha hl
  obtain ⟨e9, e8, e7, e6, e5, e4, e3, e2, e1, e0⟩ := eventBits_getLsbD t.state.lane.events
  obtain ⟨l4, l3, l2, l1, l0⟩ := levelWord_getLsbD t.state
  have event : ∀ n, (buildRecord k t).summary.getLsbD (14 + n) = (eventBits t.state.lane.events).getLsbD n :=
    summary_event t.state
  have level : ∀ n, n < 10 → (buildRecord k t).summary.getLsbD (4 + n) = (levelWord t.state).getLsbD n :=
    fun n => summary_level t.state
  refine ⟨buildRecord k t, by rw [closing, if_pos ha]; rfl, ?source, rfl, rfl, rfl, rfl,
    parseRecord_encodeRecord _ hl (buildRecord_crc k t), (event 9).trans e9, (event 8).trans e8, (event 7).trans e7, (event 6).trans e6,
    (event 5).trans e5, (event 4).trans e4, (event 3).trans e3, (event 2).trans e2, (event 1).trans e1,
    (event 0).trans e0, ?link, ?staged, ?panel, (level 3 (by omega)).trans l3, (level 2 (by omega)).trans l2,
    (level 1 (by omega)).trans l1, (level 0 (by omega)).trans l0, ?low⟩
  case source =>
    have := t.state.lane.address.isLt
    exact (BitVec.toNat_setWidth ..).trans (Nat.mod_eq_of_lt (by omega))
  case link => exact (congrArg BitVec.toNat (summary_levels t.state (i := 8) (k := 2) (by omega))).trans (levelWord_link _)
  case staged =>
    exact (congrArg BitVec.toNat (summary_levels t.state (i := 5) (k := 3) (by omega))).trans (levelWord_staged _)
  case panel => rw [show 8 = 4 + 4 from rfl, level 4 (by omega), l4, decide_eq_true_iff]
  case low =>
    exact (append_extractLsb'_low _ (levelBits t.state) (by omega)).trans
      ((append_extractLsb'_low _ (0 : BitVec 4) le_rfl).trans BitVec.extractLsb'_eq_self)

end Sys2Proof.Machine
end

section
/-! Item and tile records read back from the bytes QUERY sends (section 11.7): each part of a record is a run of bytes whose reading
is the part, so the readers' specifications (`parseItem_some`, `parseTile_some`) give the record. -/

namespace Sys2Proof.Machine

/-! ### The parts of an item record -/

theorem putFlag_bytes (b : Bool) : ∃ a : Byte, putFlag b = [a] ∧ a.toNat = b.toNat := by
  cases b <;> exact ⟨_, rfl, rfl⟩

/-- A price position of four bytes: presence and price (R5). -/
theorem putPrice_bytes {o : Option Nat} (h : ∀ v, o = some v → v ≤ 999999) :
    ∃ f a b c : Byte, putPrice o = [f, a, b, c] ∧
      ¬ (1 < f.toNat ∨ (f.toNat = 1 ∧ 999999 < (a.toNat * 256 + b.toNat) * 256 + c.toNat)) ∧
      (if f.toNat = 1 then some ((a.toNat * 256 + b.toNat) * 256 + c.toNat) else none) = o := by
  cases o with
  | none => exact ⟨0, 0, 0, 0, rfl, by simp, rfl⟩
  | some v =>
    have hv := h v rfl
    obtain ⟨a, b, c, habc, hn⟩ := put24_bytes (n := v) (by omega)
    refine ⟨1, a, b, c, by rw [putPrice, habc]; rfl, ?_, by rw [hn]; rfl⟩
    rw [hn]
    simp [hv]

/-- The two bytes of an optional photo id: presence and id. -/
def photoBytes : Option Nat → List Byte
  | none => zeros 2
  | some id => putFlag true ++ put8 id

theorem photoBytes_bytes {o : Option Nat} (h : ∀ v, o = some v → v < 256) :
    ∃ f a : Byte, photoBytes o = [f, a] ∧ f.toNat ≤ 1 ∧ (if f.toNat = 1 then some a.toNat else none) = o := by
  cases o with
  | none => exact ⟨0, 0, rfl, by simp, rfl⟩
  | some v =>
    obtain ⟨a, ha, hn⟩ := put8_bytes (h v rfl)
    exact ⟨1, a, by rw [photoBytes, ha]; rfl, le_rfl, by rw [hn]; rfl⟩

/-- The kind and the fields of an item record's body, from offset 02 to offset 22. -/
def bodyBytes : ItemBody → List Byte
  | .simple prices =>
    put8 0 ++ putPrice prices.c0 ++ putPrice prices.c1 ++ putPrice prices.c2 ++ putPrice prices.c3 ++ zeros 16
  | .combo components discount =>
    put8 1 ++ zeros 16 ++ put8 components.length ++ components.flatMap putComponent ++
      zeros (12 - 3 * components.length) ++ put24 discount

theorem encodeItem_eq (id : Nat) (r : ItemRec) : encodeItem id r = put16 id ++ bodyBytes r.body ++ photoBytes r.photo := by
  obtain ⟨body, photo⟩ := r
  cases body <;> cases photo <;> rfl

theorem flatMap_putComponent_length (l : List Component) : (l.flatMap putComponent).length = 3 * l.length := by
  induction l with
  | nil => rfl
  | cons c l ih =>
    rw [List.flatMap_cons, List.length_append, ih, List.length_cons]
    simp only [putComponent, put16, put8, List.cons_append, List.nil_append, List.length_cons, List.length_nil]
    omega

theorem byteAt_append_left {l : List Byte} {j : Nat} (h : j < l.length) (m : List Byte) :
    byteAt (l ++ m) j = byteAt l j := by
  simp [byteAt, List.getD, List.getElem?_append_left h]

/-- The bytes of an entry in its place of a list whose entries all have one size. -/
theorem byteAt_flatMap {α : Type} {f : α → List Byte} {c : Nat} (hf : ∀ a, (f a).length = c) {l : List α} {n : Nat} {a : α}
    (h : l[n]? = some a) (m : List Byte) {j : Nat} (hj : j < c) :
    byteAt (l.flatMap f ++ m) (c * n + j) = byteAt (f a) j := by
  induction l generalizing n with
  | nil => simp at h
  | cons b l ih =>
    rw [List.flatMap_cons, List.append_assoc]
    cases n with
    | zero =>
      obtain rfl : b = a := by simpa using h
      rw [Nat.mul_zero, Nat.zero_add, byteAt_append_left (by rwa [hf])]
    | succ n =>
      rw [Nat.mul_succ, show c * n + c + j = (f b).length + (c * n + j) by rw [hf]; omega, byteAt_append]
      exact ih (by simpa using h)

theorem putComponent_bytes {c : Component} (hi : c.item < 512) (hq : c.quantity ≤ 9) :
    u8 (putComponent c) 0 * 256 + u8 (putComponent c) 1 = c.item ∧ u8 (putComponent c) 2 = c.quantity := by
  obtain ⟨a, b, hab, hn⟩ := put16_bytes (n := c.item) (by omega)
  obtain ⟨d, hd, hm⟩ := put8_bytes (n := c.quantity) (by omega)
  rw [putComponent, hab, hd]
  exact ⟨hn, hm⟩

/-! ### The item record -/

/-- A payload that reads as an id, a body and a photo, none refused, is the record. -/
theorem parseItem_of_fields {p : List Byte} {id : Nat} {r : ItemRec} (hr : ¬ ItemRefused p) (hid : u16 p 0 = id)
    (hbody : bodyOf p = r.body) (hphoto : (if u8 p 0x23 = 1 then some (u8 p 0x24) else none) = r.photo) :
    parseItem p = some (id, r) := by
  rw [parseItem_some p hr, hid, hbody, hphoto]

theorem encodeItem_simple {id : Nat} {prices : PerColumn (Option Nat)} {photo : Option Nat} (hid : id < 512)
    (hphoto : ∀ v, photo = some v → v < 256) (hp : ∀ c, c < 4 → ∀ v, columnGet prices c = some v → v ≤ 999999) :
    (encodeItem id ⟨.simple prices, photo⟩).length = 37 ∧
    parseItem (encodeItem id ⟨.simple prices, photo⟩) = some (id, ⟨.simple prices, photo⟩) := by
  obtain ⟨i0, i1, hi, ei⟩ := put16_bytes (n := id) (by omega)
  obtain ⟨f0, a0, b0, c0, h0, r0, e0⟩ := putPrice_bytes (hp 0 (by omega))
  obtain ⟨f1, a1, b1, c1, h1, r1, e1⟩ := putPrice_bytes (hp 1 (by omega))
  obtain ⟨f2, a2, b2, c2, h2, r2, e2⟩ := putPrice_bytes (hp 2 (by omega))
  obtain ⟨f3, a3, b3, c3, h3, r3, e3⟩ := putPrice_bytes (hp 3 (by omega))
  obtain ⟨f, a, h, hf, e⟩ := photoBytes_bytes hphoto
  simp only [columnGet] at h0 h1 h2 h3 e0 e1 e2 e3
  have hbytes : encodeItem id ⟨.simple prices, photo⟩ =
      [i0, i1, 0, f0, a0, b0, c0, f1, a1, b1, c1, f2, a2, b2, c2, f3, a3, b3, c3, 0, 0, 0, 0, 0, 0, 0, 0, 0, 0, 0, 0, 0, 0,
        0, 0, f, a] := by
    rw [encodeItem_eq, bodyBytes, hi, h0, h1, h2, h3, h]
    rfl
  rw [hbytes]
  refine ⟨rfl, parseItem_of_fields ?_ ei ?_ e⟩
  · rintro (hc | hc | hc | ⟨-, c, hc, hbad⟩ | ⟨hc, -⟩)
    · have : i0.toNat * 256 + i1.toNat > 511 := hc
      omega
    · cases hc
    · exact absurd hf (not_le.2 hc)
    · obtain rfl | rfl | rfl | rfl : c = 0 ∨ c = 1 ∨ c = 2 ∨ c = 3 := by omega
      · exact r0 hbad
      · exact r1 hbad
      · exact r2 hbad
      · exact r3 hbad
    · cases hc
  · obtain ⟨q0, q1, q2, q3⟩ := prices
    refine (if_pos rfl).trans (congrArg ItemBody.simple ?_)
    simp only at e0 e1 e2 e3
    subst e0 e1 e2 e3
    rfl

theorem encodeItem_combo {id : Nat} {components : List Component} {discount : Nat} {photo : Option Nat} (hid : id < 512)
    (hphoto : ∀ v, photo = some v → v < 256) (h1 : 1 ≤ components.length) (h4 : components.length ≤ 4)
    (hd : discount ≤ 999999)
    (hc : ∀ c ∈ components, c.item < 512 ∧ c.item ≠ id ∧ 1 ≤ c.quantity ∧ c.quantity ≤ 9) :
    (encodeItem id ⟨.combo components discount, photo⟩).length = 37 ∧
    parseItem (encodeItem id ⟨.combo components discount, photo⟩) = some (id, ⟨.combo components discount, photo⟩) := by
  obtain ⟨i0, i1, hi, ei⟩ := put16_bytes (n := id) (by omega)
  obtain ⟨l, hl, el⟩ := put8_bytes (n := components.length) (by omega)
  obtain ⟨d0, d1, d2, hdb, ed⟩ := put24_bytes (n := discount) (by omega)
  obtain ⟨f, a, hf, hf1, ef⟩ := photoBytes_bytes hphoto
  let pre : List Byte := [i0, i1, 1, 0, 0, 0, 0, 0, 0, 0, 0, 0, 0, 0, 0, 0, 0, 0, 0, l]
  let tail : List Byte := [d0, d1, d2, f, a]
  have hbytes : encodeItem id ⟨.combo components discount, photo⟩ =
      pre ++ (components.flatMap putComponent ++ (zeros (12 - 3 * components.length) ++ tail)) := by
    rw [encodeItem_eq, bodyBytes, hi, hl, hdb, hf]
    simp only [List.append_assoc]
    rfl
  have hmid : (pre ++ (components.flatMap putComponent ++ zeros (12 - 3 * components.length))).length = 32 := by
    rw [List.length_append, List.length_append, flatMap_putComponent_length, zeros, List.length_replicate]
    show 20 + _ = 32
    omega
  have hcomp : ∀ n c, components[n]? = some c → ∀ j, j < 3 →
      u8 (encodeItem id ⟨.combo components discount, photo⟩) (0x14 + 3 * n + j) = u8 (putComponent c) j :=
    fun n c hn j hj => by
      rw [hbytes, Nat.add_assoc]
      exact (u8_append pre _ _).trans (congrArg BitVec.toNat (byteAt_flatMap (f := putComponent) (fun _ => rfl) hn _ hj))
  have htail : ∀ j, u8 (encodeItem id ⟨.combo components discount, photo⟩) (32 + j) = u8 tail j := fun j => by
    rw [hbytes, ← List.append_assoc (components.flatMap putComponent), ← List.append_assoc pre, ← hmid]
    exact u8_append _ tail j
  have hlen : (encodeItem id ⟨.combo components discount, photo⟩).length = 37 := by
    rw [hbytes, ← List.append_assoc (components.flatMap putComponent), ← List.append_assoc pre, List.length_append, hmid]
    rfl
  have hkind : u8 (encodeItem id ⟨.combo components discount, photo⟩) 2 = 1 := by rw [hbytes]; rfl
  have hcount : u8 (encodeItem id ⟨.combo components discount, photo⟩) 0x13 = components.length := by rw [hbytes]; exact el
  have hids : u16 (encodeItem id ⟨.combo components discount, photo⟩) 0 = id := by rw [hbytes]; exact ei
  generalize encodeItem id ⟨.combo components discount, photo⟩ = p at hcomp htail hlen hkind hcount hids
  have hdiscount : u24 p 0x20 = discount := by
    rw [u24, u16, htail 0, htail 1, htail 2]
    exact ed
  have hitem : ∀ n c, components[n]? = some c → u16 p (0x14 + 3 * n) = c.item ∧ u8 p (0x16 + 3 * n) = c.quantity :=
    fun n c hn => by
      obtain ⟨hci, -, -, hcq⟩ := hc c (List.mem_of_getElem? hn)
      obtain ⟨ki, kq⟩ := putComponent_bytes hci hcq
      have h0 : u8 p (0x14 + 3 * n) = u8 (putComponent c) 0 := hcomp n c hn 0 (by omega)
      rw [u16, show 0x16 + 3 * n = 0x14 + 3 * n + 2 by omega, h0, hcomp n c hn 1 (by omega), hcomp n c hn 2 (by omega)]
      exact ⟨ki, kq⟩
  refine ⟨hlen, parseItem_of_fields ?_ hids ?_ (by rw [htail 3, htail 4]; exact ef)⟩
  · rintro (h | h | h | ⟨h, -⟩ | ⟨-, h | h | h | ⟨n, hn, h⟩⟩)
    · omega
    · omega
    · rw [htail 3] at h
      exact absurd hf1 (not_le.2 h)
    · omega
    · omega
    · omega
    · omega
    · have hn' : components[n]? = some (components[n]'(by omega)) := List.getElem?_eq_getElem _
      obtain ⟨ki, kq⟩ := hitem n _ hn'
      obtain ⟨hci, hne, hq1, hq9⟩ := hc _ (List.mem_of_getElem? hn')
      rw [ki, kq, hids] at h
      omega
  · rw [bodyOf, if_neg (by omega), hdiscount, hcount]
    congr 1
    refine List.ext_getElem (by simp) fun n _ hn => ?_
    obtain ⟨ki, kq⟩ := hitem n _ (List.getElem?_eq_getElem hn)
    rw [List.getElem_map, List.getElem_range, ki, kq]

/-! ### The parts of a tile record -/

/-- The three bytes of a tile's item: presence and id (offset 0C). -/
def tileItemBytes : Option Nat → List Byte
  | none => zeros 3
  | some i => putFlag true ++ put16 i

theorem tileItemBytes_bytes {o : Option Nat} (h : ∀ v, o = some v → v < 512) :
    ∃ f a b : Byte, tileItemBytes o = [f, a, b] ∧ f.toNat = o.isSome.toNat ∧ a.toNat * 256 + b.toNat < 512 ∧
      (if f.toNat = 1 then some (a.toNat * 256 + b.toNat) else none) = o := by
  cases o with
  | none => exact ⟨0, 0, 0, rfl, rfl, by simp, rfl⟩
  | some v =>
    have hv := h v rfl
    obtain ⟨a, b, hab, hn⟩ := put16_bytes (n := v) (by omega)
    exact ⟨1, a, b, by rw [tileItemBytes, hab]; rfl, rfl, by rwa [hn], by rw [hn]; rfl⟩

/-- The six bytes of a PHOTO tile's own photo and anchor (offset 0F). -/
def contentBytes : TileBody → List Byte
  | .photo own ox oy => photoBytes own ++ putS16 ox ++ putS16 oy
  | _ => zeros 6

/-- The five bytes of a tile's fill (offset 15). -/
def fillBytes : Option Fill → List Byte
  | none => zeros 5
  | some f => putFlag true ++ putColor f.color ++ [f.opacity]

theorem fillBytes_bytes (o : Option Fill) : ∃ f r g b a : Byte, fillBytes o = [f, r, g, b, a] ∧ f.toNat ≤ 1 ∧
    (if f.toNat = 1 then some ⟨⟨r, g, b⟩, a⟩ else none) = o := by
  cases o with
  | none => exact ⟨0, 0, 0, 0, 0, rfl, by simp, rfl⟩
  | some f => exact ⟨1, f.color.r, f.color.g, f.color.b, f.opacity, rfl, le_rfl, rfl⟩

/-- The nine bytes of a PRICE tile's style (offset 1E). -/
def styleBytes : TileBody → List Byte
  | .price s =>
    put8 s.font ++ putColor s.ink ++ put8 (alignCode s.align) ++ [s.pad] ++ put16 s.textTop ++ put8 s.tracking
  | _ => zeros 9

theorem encodeTile_eq (page id : Nat) (t : TileRec) : encodeTile page id t =
    put8 page ++ put8 id ++ put8 (tileKindCode t.body) ++ putS16 t.x ++ putS16 t.y ++ put16 t.w ++ put16 t.h ++ [t.z] ++
      tileItemBytes t.item ++ contentBytes t.body ++ fillBytes t.fill ++ [t.opacity] ++ put8 (showWhenCode t.showWhen) ++
      put8 (treatmentCode t.treatment) ++ [t.blink] ++ styleBytes t.body := by
  obtain ⟨body, x, y, w, h, z, item, fill, opacity, showWhen, treatment, blink⟩ := t
  cases item <;> cases fill <;> obtain ⟨_ | _, ox, oy⟩ | s | _ := body <;> rfl

/-- A 16-bit two's complement number, of its two bytes. -/
def signed (a b : Byte) : Int :=
  if a.toNat * 256 + b.toNat < 32768 then ((a.toNat * 256 + b.toNat : Nat) : Int)
  else ((a.toNat * 256 + b.toNat : Nat) : Int) - 65536

theorem contentBytes_bytes {b : TileBody}
    (h : ∀ own ox oy, b = .photo own ox oy →
      (∀ p, own = some p → p < 256) ∧ -512 ≤ ox ∧ ox ≤ 2047 ∧ -512 ≤ oy ∧ oy ≤ 2047) :
    ∃ f a x₀ x₁ y₀ y₁ : Byte, contentBytes b = [f, a, x₀, x₁, y₀, y₁] ∧ f.toNat ≤ 1 ∧
      (f.toNat = 1 → tileKindCode b = 0) ∧
      ∀ own ox oy, b = .photo own ox oy →
        (if f.toNat = 1 then some a.toNat else none) = own ∧ signed x₀ x₁ = ox ∧ signed y₀ y₁ = oy := by
  cases b with
  | photo own ox oy =>
    obtain ⟨hown, hox, hox', hoy, hoy'⟩ := h own ox oy rfl
    obtain ⟨f, a, hfa, hf, e⟩ := photoBytes_bytes hown
    obtain ⟨x₀, x₁, hx, ex⟩ := putS16_bytes (i := ox) (by omega)
    obtain ⟨y₀, y₁, hy, ey⟩ := putS16_bytes (i := oy) (by omega)
    refine ⟨f, a, x₀, x₁, y₀, y₁, by rw [contentBytes, hfa, hx, hy]; rfl, hf, fun _ => rfl, ?_⟩
    rintro _ _ _ ⟨⟩
    exact ⟨e, ex, ey⟩
  | price s => exact ⟨0, 0, 0, 0, 0, 0, rfl, by simp, by simp, by simp⟩
  | panel => exact ⟨0, 0, 0, 0, 0, 0, rfl, by simp, by simp, by simp⟩

theorem styleBytes_bytes {b : TileBody}
    (h : ∀ s, b = .price s → s.font ≤ 3 ∧ s.textTop ≤ 2047 ∧ s.tracking ≤ 15) :
    ∃ f r g bl al pad t₀ t₁ tr : Byte, styleBytes b = [f, r, g, bl, al, pad, t₀, t₁, tr] ∧
      ∀ s, b = .price s → alignCode s.align = al.toNat ∧
        s = ⟨f.toNat, ⟨r, g, bl⟩, s.align, pad, t₀.toNat * 256 + t₁.toNat, tr.toNat⟩ := by
  cases b with
  | price s =>
    obtain ⟨hfont, htop, htracking⟩ := h s rfl
    obtain ⟨f, hf, ef⟩ := put8_bytes (n := s.font) (by omega)
    obtain ⟨al, ha, ea⟩ := put8_bytes (n := alignCode s.align) (by cases s.align <;> decide)
    obtain ⟨t₀, t₁, ht, et⟩ := put16_bytes (n := s.textTop) (by omega)
    obtain ⟨tr, htr, etr⟩ := put8_bytes (n := s.tracking) (by omega)
    refine ⟨f, s.ink.r, s.ink.g, s.ink.b, al, s.pad, t₀, t₁, tr, by rw [styleBytes, hf, ha, ht, htr]; rfl, ?_⟩
    rintro _ ⟨⟩
    exact ⟨ea.symm, by rw [ef, et, etr]⟩
  | photo own ox oy => exact ⟨0, 0, 0, 0, 0, 0, 0, 0, 0, rfl, by simp⟩
  | panel => exact ⟨0, 0, 0, 0, 0, 0, 0, 0, 0, rfl, by simp⟩

theorem showWhenCode_injective {a b : ShowWhen} (h : showWhenCode a = showWhenCode b) : a = b := by
  cases a <;> cases b <;> simp_all [showWhenCode]

theorem treatmentCode_injective {a b : Treatment} (h : treatmentCode a = treatmentCode b) : a = b := by
  cases a <;> cases b <;> simp_all [treatmentCode]

theorem alignCode_injective {a b : Align} (h : alignCode a = alignCode b) : a = b := by
  cases a <;> cases b <;> simp_all [alignCode]

/-! ### The tile record -/

theorem encodeTile_reads {page id : Nat} {t : TileRec} (hr : TileInRange page id t) :
    (encodeTile page id t).length = 39 ∧ parseTile (encodeTile page id t) = some (page, id, t) := by
  obtain ⟨hpage, hid, hx, hx', hy, hy', hw, hw', hh, hh', hitem, hbody⟩ := hr
  obtain ⟨g, hg, eg⟩ := put8_bytes (n := page) (by omega)
  obtain ⟨i, hi, ei⟩ := put8_bytes (n := id) (by omega)
  obtain ⟨k, hk, ek⟩ := put8_bytes (n := tileKindCode t.body) (by cases t.body <;> simp [tileKindCode])
  obtain ⟨x₀, x₁, hxb, ex⟩ := putS16_bytes (i := t.x) (by omega)
  obtain ⟨y₀, y₁, hyb, ey⟩ := putS16_bytes (i := t.y) (by omega)
  obtain ⟨w₀, w₁, hwb, ew⟩ := put16_bytes (n := t.w) (by omega)
  obtain ⟨h₀, h₁, hhb, eh⟩ := put16_bytes (n := t.h) (by omega)
  obtain ⟨n, n₀, n₁, hn, hnf, hn', en⟩ := tileItemBytes_bytes hitem
  obtain ⟨f, a, ox₀, ox₁, oy₀, oy₁, hc, hf, hkind, ec⟩ := contentBytes_bytes (b := t.body) (by
    intro own ox oy e
    rw [e] at hbody
    exact hbody)
  obtain ⟨l, r, gr, bl, lo, hl, hl', el⟩ := fillBytes_bytes t.fill
  obtain ⟨sw, hsw, esw⟩ := put8_bytes (n := showWhenCode t.showWhen) (by cases t.showWhen <;> decide)
  obtain ⟨tm, htm, etm⟩ := put8_bytes (n := treatmentCode t.treatment) (by cases t.treatment <;> decide)
  obtain ⟨sf, sr, sg, sb, al, pad, t₀, t₁, tr, hs, es⟩ := styleBytes_bytes (b := t.body) (by
    intro s e
    rw [e] at hbody
    exact hbody.2)
  have hbytes : encodeTile page id t =
      [g, i, k, x₀, x₁, y₀, y₁, w₀, w₁, h₀, h₁, t.z, n, n₀, n₁, f, a, ox₀, ox₁, oy₀, oy₁, l, r, gr, bl, lo, t.opacity, sw, tm,
        t.blink, sf, sr, sg, sb, al, pad, t₀, t₁, tr] := by
    rw [encodeTile_eq, hg, hi, hk, hxb, hyb, hwb, hhb, hn, hc, hl, hsw, htm, hs]
    rfl
  refine ⟨by rw [hbytes]; rfl, ?_⟩
  have hnot : ¬ TileRefused (encodeTile page id t) := by
    rw [hbytes]
    change ¬ (7 < g.toNat ∨ 47 < i.toNat ∨ 2 < k.toNat ∨ signed x₀ x₁ < -2048 ∨ 4095 < signed x₀ x₁ ∨
      signed y₀ y₁ < -2048 ∨ 4095 < signed y₀ y₁ ∨ w₀.toNat * 256 + w₁.toNat = 0 ∨ 2048 < w₀.toNat * 256 + w₁.toNat ∨
      h₀.toNat * 256 + h₁.toNat = 0 ∨ 2048 < h₀.toNat * 256 + h₁.toNat ∨ 1 < n.toNat ∨
      (n.toNat = 1 ∧ 511 < n₀.toNat * 256 + n₁.toNat) ∨ (k.toNat = 1 ∧ n.toNat = 0) ∨ 1 < f.toNat ∨
      (f.toNat = 1 ∧ k.toNat ≠ 0) ∨
      (k.toNat = 0 ∧ (signed ox₀ ox₁ < -512 ∨ 2047 < signed ox₀ ox₁ ∨ signed oy₀ oy₁ < -512 ∨ 2047 < signed oy₀ oy₁)) ∨
      2 < sw.toNat ∨ 2 < tm.toNat ∨ 1 < l.toNat ∨
      (k.toNat = 1 ∧ (3 < sf.toNat ∨ 2 < al.toNat ∨ 2047 < t₀.toNat * 256 + t₁.toNat ∨ 15 < tr.toNat)))
    rw [show signed x₀ x₁ = t.x from ex, show signed y₀ y₁ = t.y from ey, eg, ei, ew, eh, esw, etm]
    have hn1 : n.toNat ≤ 1 := hnf ▸ Bool.toNat_le _
    have hsw2 : showWhenCode t.showWhen ≤ 2 := by cases t.showWhen <;> simp [showWhenCode]
    have htm2 : treatmentCode t.treatment ≤ 2 := by cases t.treatment <;> simp [treatmentCode]
    cases hb : t.body with
    | photo own ox oy =>
      obtain ⟨-, eox, eoy⟩ := ec own ox oy hb
      rw [hb] at hbody ek
      obtain ⟨-, hox, hox', hoy, hoy'⟩ := hbody
      have hk0 : k.toNat = 0 := ek
      omega
    | price s =>
      obtain ⟨eal, est⟩ := es s hb
      rw [hb] at hbody ek
      obtain ⟨hsome, hfont, htop, htracking⟩ := hbody
      have hk1 : k.toNat = 1 := ek
      have hal : alignCode s.align ≤ 2 := by cases s.align <;> simp [alignCode]
      rw [est] at hfont htop htracking
      rw [hsome] at hnf
      have hnone : n.toNat = 1 := hnf
      have hfk : f.toNat = 1 → tileKindCode t.body = 0 := hkind
      rw [hb] at hfk
      simp only [tileKindCode] at hfk hfont htop htracking
      omega
    | panel =>
      rw [hb] at ek hkind
      have hk2 : k.toNat = 2 := ek
      simp only [tileKindCode] at hkind
      omega
  obtain ⟨t', ht', ⟨hx, hy, hw, hh, hz, hn, hl, ho, hsw, htm, hb⟩, hphoto, hprice, hpanel⟩ := parseTile_some _ hnot
  rw [ht', hbytes]
  rw [hbytes] at hx hy hw hh hz hn hl ho hsw htm hb hphoto hprice hpanel
  have hbody' : t'.body = t.body := by
    cases hb : t.body with
    | photo own ox oy =>
      obtain ⟨eown, eox, eoy⟩ := ec own ox oy hb
      rw [← eown, ← eox, ← eoy]
      exact hphoto (by rw [hb] at ek; exact ek)
    | price s =>
      obtain ⟨eal, est⟩ := es s hb
      obtain ⟨align, halign, e⟩ := hprice (by rw [hb] at ek; exact ek)
      rw [e, est, alignCode_injective (eal.trans halign.symm)]
      rfl
    | panel => exact hpanel (by rw [hb] at ek; exact ek)
  have hrec : t' = t := by
    obtain ⟨body, x, y, w, h, z, item, fill, opacity, showWhen, treatment, blink⟩ := t
    obtain ⟨body', x', y', w', h', z', item', fill', opacity', showWhen', treatment', blink'⟩ := t'
    rw [TileRec.mk.injEq]
    exact ⟨hbody', hx.trans ex, hy.trans ey, hw.trans ew, hh.trans eh, hz, hn.trans en, hl.trans el, ho,
      showWhenCode_injective (hsw.trans esw), treatmentCode_injective (htm.trans etm), hb⟩
  rw [hrec]
  exact congrArg some (Prod.ext eg (Prod.ext ei rfl))

/-- Settles O12. -/
theorem itemAndTileRecordsReadBack : Obligations.ItemAndTileRecordsReadBack := by
  refine ⟨fun id r hr => ?_, fun page id t ht => encodeTile_reads ht⟩
  obtain ⟨body, photo⟩ := r
  obtain ⟨hid, hphoto, hbody⟩ := hr
  cases body with
  | simple prices => exact encodeItem_simple hid hphoto hbody
  | combo components discount =>
    obtain ⟨h1, h4, hd, hc⟩ := hbody
    exact encodeItem_combo hid hphoto h1 h4 hd hc

end Sys2Proof.Machine
end

section
/-! The staged edits: their common refusals (R3), TILE_PUT (R18), the drops and PAGE_WIPE (R9, R19, R20), COLUMN_PUT, FORMAT_PUT and
SCHED_PUT (R10, R12, R22) are settled here. -/

namespace Sys2Proof.Machine

/-- Every staged edit command is a staged edit, behind the length its code requires. -/
theorem carryOut_stagedEdit {code : Byte} (h : code ∈ stagedEditCodes) (p : List Byte) (s : State) :
    ∃ edit, carryOut code p s = stagedEdit s (editLengthOk code p) edit := by
  simp only [stagedEditCodes, List.mem_cons, List.not_mem_nil, or_false] at h
  obtain rfl | rfl | rfl | rfl | rfl | rfl | rfl | rfl := h
  all_goals exact ⟨_, rfl⟩

/-- Settles O15: all staged edits share one handling. -/
theorem stagedEditsRefuseLengthThenPendingTake : Obligations.StagedEditsRefuseLengthThenPendingTake := by
  intro i k s hi hk hT
  obtain ⟨edit, he⟩ := carryOut_stagedEdit hk k.payload (entered s i)
  rw [exec_takenAtOnce hi hT, he]
  refine ⟨fun hl => ?length, fun hl ht => ?pending⟩
  case length => rw [hl]; rfl
  case pending =>
    have ht' : (entered s i).tables.pendingTake.isSome = true := ht
    unfold stagedEdit
    rw [hl, ht']
    rfl

section
variable {p : List Byte} {s : State}

/-! ### TILE_PUT (R18) -/

theorem carryTilePut_refused (hl : p.length = 39) (ht : s.tables.pendingTake = none) (hr : TileRefused p) :
    carryTilePut p s = ⟨.outOfRange, [], s⟩ := by
  rw [carryTilePut, stagedEdit_eq _ _ _ (by simpa using hl) ht, parseTile_none p hr]
  rfl

theorem carryTilePut_placed {page id : Nat} {t : TileRec} (hl : p.length = 39) (ht : s.tables.pendingTake = none)
    (hp : parseTile p = some (page, id, t)) :
    carryTilePut p s =
      ⟨.ok, [], staging s { s.tables.staged with tiles := tput s.tables.staged.tiles (page * 48 + id) t }⟩ := by
  rw [carryTilePut, stagedEdit_eq _ _ _ (by simpa using hl) ht, hp]
  rfl

/-! ### ITEM_DROP, TILE_DROP and PAGE_WIPE (R9, R19, R20) -/

theorem carryItemDrop_eq (hl : p.length = 2) (ht : s.tables.pendingTake = none) :
    carryItemDrop p s =
      if 511 < u16 p 0 then ⟨.outOfRange, [], s⟩
      else if tget s.tables.staged.items (u16 p 0) = none then ⟨.notFound, [], s⟩
      else ⟨.ok, [], staging s { s.tables.staged with items := tdrop s.tables.staged.items (u16 p 0) }⟩ := by
  rw [carryItemDrop, stagedEdit_eq _ _ _ (by simpa using hl) ht]
  by_cases hr : 511 < u16 p 0
  · rw [if_pos hr, if_neg (show ¬ u16 p 0 < Config.itemIds by simp only [Config.itemIds]; omega)]
  · rw [if_neg hr, if_pos (show u16 p 0 < Config.itemIds by simp only [Config.itemIds]; omega)]
    cases hget : tget s.tables.staged.items (u16 p 0) <;> simp [hget]

theorem carryTileDrop_eq (hl : p.length = 2) (ht : s.tables.pendingTake = none) :
    carryTileDrop p s =
      if 7 < u8 p 0 ∨ 47 < u8 p 1 then ⟨.outOfRange, [], s⟩
      else if tget s.tables.staged.tiles (u8 p 0 * 48 + u8 p 1) = none then ⟨.notFound, [], s⟩
      else ⟨.ok, [], staging s
        { s.tables.staged with tiles := tdrop s.tables.staged.tiles (u8 p 0 * 48 + u8 p 1) }⟩ := by
  rw [carryTileDrop, stagedEdit_eq _ _ _ (by simpa using hl) ht]
  by_cases hr : 7 < u8 p 0 ∨ 47 < u8 p 1
  · rw [if_pos hr, if_neg (show ¬ (u8 p 0 < Config.pageCount ∧ u8 p 1 < Config.tilesPerPage) by
      simp only [Config.pageCount, Config.tilesPerPage]; omega)]
  · rw [if_neg hr, if_pos (show u8 p 0 < Config.pageCount ∧ u8 p 1 < Config.tilesPerPage by
      simp only [Config.pageCount, Config.tilesPerPage]; omega)]
    cases hget : tget s.tables.staged.tiles (u8 p 0 * 48 + u8 p 1) <;> simp [hget, tileKey, Config.tilesPerPage]

/-- The tiles that PAGE_WIPE leaves (R20). -/
def tilesOffPage (page : Nat) (t : Table TileRec) : Table TileRec := t.filter fun e => e.1 / Config.tilesPerPage != page

theorem tget_tilesOffPage (page : Nat) (t : Table TileRec) (q : Nat) {id : Nat} (hid : id < 48) :
    tget (tilesOffPage page t) (q * 48 + id) = if q = page then none else tget t (q * 48 + id) := by
  have hq : (q * 48 + id) / Config.tilesPerPage = q := by simp only [Config.tilesPerPage]; omega
  rw [tilesOffPage, tget_filter t fun k => k / Config.tilesPerPage != page, hq]
  by_cases h : q = page <;> simp [h]

theorem carryPageWipe_eq (hl : p.length = 1) (ht : s.tables.pendingTake = none) :
    carryPageWipe p s =
      if 7 < u8 p 0 then ⟨.outOfRange, [], s⟩
      else ⟨.ok, [], staging s { s.tables.staged with tiles := tilesOffPage (u8 p 0) s.tables.staged.tiles }⟩ := by
  rw [carryPageWipe, stagedEdit_eq _ _ _ (by simpa using hl) ht]
  by_cases hr : 7 < u8 p 0
  · rw [if_pos hr, if_neg (show ¬ u8 p 0 < Config.pageCount by simp only [Config.pageCount]; omega)]
  · rw [if_neg hr, if_pos (show u8 p 0 < Config.pageCount by simp only [Config.pageCount]; omega)]
    rfl

/-! ### COLUMN_PUT, FORMAT_PUT and SCHED_PUT (R10, R12, R22) -/

theorem carryColumnPut_eq (hl : p.length = 3) (ht : s.tables.pendingTake = none) :
    carryColumnPut p s =
      if 3 < u8 p 0 ∨ u16 p 1 < 500 ∨ 2000 < u16 p 1 then ⟨.outOfRange, [], s⟩
      else ⟨.ok, [], staging s
        { s.tables.staged with factors := columnSet s.tables.staged.factors (u8 p 0) (u16 p 1) }⟩ := by
  rw [carryColumnPut, stagedEdit_eq _ _ _ (by simpa using hl) ht]
  by_cases hr : 3 < u8 p 0 ∨ u16 p 1 < 500 ∨ 2000 < u16 p 1
  · rw [if_pos hr, if_neg (by omega)]
  · rw [if_neg hr, if_pos (by omega)]

theorem carryFormatPut_refused (hl : p.length = 9) (ht : s.tables.pendingTake = none) (hr : FormatRefused p) :
    carryFormatPut p s = ⟨.outOfRange, [], s⟩ := by
  rw [carryFormatPut, stagedEdit_eq _ _ _ (by simpa using hl) ht, parseFormat_none p hr]
  rfl

theorem carryFormatPut_placed {f : PriceFormat} (hl : p.length = 9) (ht : s.tables.pendingTake = none)
    (hp : parseFormat p = some f) :
    carryFormatPut p s = ⟨.ok, [], staging s { s.tables.staged with format := f }⟩ := by
  rw [carryFormatPut, stagedEdit_eq _ _ _ (by simpa using hl) ht, hp]
  rfl

theorem countedLength_schedule (h0 : 0 < p.length) (hl : p.length = 1 + 5 * u8 p 0) : countedLength p 1 0 5 = true := by
  rw [countedLength, Bool.and_eq_true, decide_eq_true_iff, decide_eq_true_iff]
  exact ⟨h0, hl⟩

theorem carrySchedPut_refused (h0 : 0 < p.length) (hl : p.length = 1 + 5 * u8 p 0) (ht : s.tables.pendingTake = none)
    (hr : ScheduleRefused p) : carrySchedPut p s = ⟨.outOfRange, [], s⟩ := by
  rw [carrySchedPut, stagedEdit_eq _ _ _ (countedLength_schedule h0 hl) ht, parseSchedule_none p hr]
  rfl

theorem carrySchedPut_placed (h0 : 0 < p.length) (hl : p.length = 1 + 5 * u8 p 0) (ht : s.tables.pendingTake = none)
    (hr : ¬ ScheduleRefused p) :
    carrySchedPut p s = ⟨.ok, [], staging s { s.tables.staged with schedule := scheduleOf p }⟩ := by
  rw [carrySchedPut, stagedEdit_eq _ _ _ (countedLength_schedule h0 hl) ht, (parseSchedule_some p hr).1]
  rfl

end

/-! ### The statements -/

/-- Settles O17: past its length and with no take pending, TILE_PUT is what its reader answers for the payload. -/
theorem tilePutPlacesOrRefusesTheRecord : Obligations.TilePutPlacesOrRefusesTheRecord := by
  intro s h p hT hl ht
  refine ⟨fun hr => ?refused, fun hr => ?placed⟩
  case refused => rw [execTilePut_taken hT, carryTilePut_refused (s := s.begin) hl ht hr]
  case placed =>
    obtain ⟨t, hp, hfields⟩ := parseTile_some p hr
    refine ⟨t, ?_, hfields⟩
    rw [execTilePut_taken hT, carryTilePut_placed (s := s.begin) hl ht hp]
    rfl

/-- Settles O18: the records removed are read off the table laws of `tdrop` and of the filter by page. -/
theorem dropsAndWipesRemoveExactlyWhatTheyName : Obligations.DropsAndWipesRemoveExactlyWhatTheyName := by
  intro s h p ht
  refine ⟨fun hT hl => ⟨_, ?item, tget_tdrop s.tables.staged.items (u16 p 0)⟩,
    fun hT hl => ⟨_, ?tile, tget_tdrop s.tables.staged.tiles (u8 p 0 * 48 + u8 p 1)⟩,
    fun hT hl => ⟨_, ?page, fun q _ hid => tget_tilesOffPage (u8 p 0) s.tables.staged.tiles q hid⟩⟩
  case item => rw [execItemDrop_taken hT, carryItemDrop_eq (s := s.begin) hl ht]; rfl
  case tile => rw [execTileDrop_taken hT, carryTileDrop_eq (s := s.begin) hl ht]; rfl
  case page => rw [execPageWipe_taken hT, carryPageWipe_eq (s := s.begin) hl ht]; rfl

/-- Settles O19: each of the three is what its reader answers for the payload. -/
theorem columnFormatAndScheduleEditsReplaceOnePart : Obligations.ColumnFormatAndScheduleEditsReplaceOnePart := by
  intro s h p ht
  refine ⟨fun hT hl => ?column, fun hT hl => ⟨fun hr => ?formatRefused, fun hr => ?format⟩,
    fun hT h0 hl => ⟨fun hr => ?scheduleRefused, fun hr => ?schedule⟩⟩
  case column => rw [execColumnPut_taken hT, carryColumnPut_eq (s := s.begin) hl ht]; rfl
  case formatRefused => rw [execFormatPut_taken hT, carryFormatPut_refused (s := s.begin) hl ht hr]
  case format =>
    obtain ⟨f, hp, hrange, hsymbol, hminor, hshort, hrounding, hstep, hending, htax, hrate⟩ := parseFormat_some p hr
    refine ⟨f, hrange, hsymbol, hminor, hshort, hrounding, hstep, hending, htax, hrate, ?_⟩
    rw [execFormatPut_taken hT, carryFormatPut_placed (s := s.begin) hl ht hp]
    rfl
  case scheduleRefused => rw [execSchedPut_taken hT, carrySchedPut_refused (s := s.begin) h0 hl ht hr]
  case schedule =>
    refine ⟨scheduleOf p, (parseSchedule_some p hr).2, by simp [scheduleOf], fun n hn => by simp [scheduleOf, hn], ?_⟩
    rw [execSchedPut_taken hT, carrySchedPut_placed (s := s.begin) h0 hl ht hr]
    rfl

end Sys2Proof.Machine
end

section
/-! The immediate class and the photo directory: FORCE, HIGHLIGHT and BACKLIGHT (R57, R133, R164), CONFIG_PUT and GAMMA_PUT (R185,
R159), PHOTO_OPEN and PHOTO_DROP (R93, R94) are settled here, each by what its carry definition answers. -/

namespace Sys2Proof.Machine

/-! ### FORCE, HIGHLIGHT and BACKLIGHT -/

section
variable {p : List Byte} {s : State}

theorem eq_zero_or_one_or_above (n : Nat) : n = 0 ∨ n = 1 ∨ ∃ m, n = m + 2 := by
  by_cases h : 2 ≤ n
  · exact .inr (.inr ⟨n - 2, by omega⟩)
  · omega

theorem parseForce_eq (p : List Byte) :
    parseForce p =
      if 2 < u8 p 0 ∨ (u8 p 0 ≠ 2 ∧ (7 < u8 p 1 ∨ 3 < u8 p 2)) then none
      else some (if u8 p 0 = 2 then none
        else some ⟨if u8 p 0 = 0 then OverrideMode.untilRelease else OverrideMode.untilBoundary, u8 p 1, u8 p 2⟩) := by
  have hpage : Config.pageCount = 8 := rfl
  unfold parseForce
  obtain h | h | ⟨n, h⟩ := eq_zero_or_one_or_above (u8 p 0)
  case inr.inr =>
    cases n with
    | zero => rw [h]; rfl
    | succ n => rw [h, if_pos (by omega)]; rfl
  all_goals
    by_cases hr : u8 p 1 < Config.pageCount ∧ u8 p 2 ≤ 3
    · rw [guard_some hr, h, if_neg (by omega)]
      rfl
    · rw [guard_none hr, h, if_pos (by omega)]
      rfl

theorem carryForce_eq (p : List Byte) (s : State) :
    carryForce p s =
      if p.length ≠ 3 then ⟨.badLength, [], s⟩
      else if 2 < u8 p 0 ∨ (u8 p 0 ≠ 2 ∧ (7 < u8 p 1 ∨ 3 < u8 p 2)) then ⟨.outOfRange, [], s⟩
      else ⟨.ok, [],
        { s with
          context :=
            { s.context with
              override :=
                if u8 p 0 = 2 then none
                else some
                  ⟨if u8 p 0 = 0 then OverrideMode.untilRelease else OverrideMode.untilBoundary, u8 p 1, u8 p 2⟩ } }⟩ := by
  rw [carryForce, parseForce_eq]
  refine if_congr Iff.rfl rfl ?_
  by_cases hr : 2 < u8 p 0 ∨ (u8 p 0 ≠ 2 ∧ (7 < u8 p 1 ∨ 3 < u8 p 2))
  · simp only [if_pos hr]; rfl
  · simp only [if_neg hr]; rfl

/-- What a HIGHLIGHT payload puts in its slot (R133). -/
def highlightOf (p : List Byte) : Option Highlight :=
  if u8 p 1 = 0 then some ⟨u8 p 2, u8 p 3, u8 p 4, colorAt p 5, byteAt p 8⟩ else none

theorem parseHighlight_eq (p : List Byte) :
    parseHighlight p =
      if 1 < u8 p 0 ∨ 1 < u8 p 1 ∨ (u8 p 1 = 0 ∧ (47 < u8 p 2 ∨ 31 < u8 p 3 ∨ u8 p 4 = 0 ∨ 16 < u8 p 4)) then none
      else some (u8 p 0, highlightOf p) := by
  unfold parseHighlight highlightOf
  by_cases h0 : u8 p 0 ≤ 1
  swap
  · rw [guard_none h0, if_pos (by omega)]; rfl
  rw [guard_some h0, some_bind]
  have hpage : Config.tilesPerPage = 48 := rfl
  obtain h | h | ⟨n, h⟩ := eq_zero_or_one_or_above (u8 p 1)
  · by_cases hr : u8 p 2 < Config.tilesPerPage ∧ u8 p 3 ≤ 31 ∧ 1 ≤ u8 p 4 ∧ u8 p 4 ≤ 16
    · rw [guard_some hr, if_pos h, h, if_neg (by omega)]; rfl
    · rw [guard_none hr, h, if_pos (by omega)]; rfl
  · rw [h, if_neg (by omega), if_neg (by omega)]; rfl
  · rw [h, if_pos (by omega)]; rfl

theorem carryHighlight_eq (p : List Byte) (s : State) :
    carryHighlight p s =
      if p.length ≠ 9 then ⟨.badLength, [], s⟩
      else if 1 < u8 p 0 ∨ 1 < u8 p 1 ∨ (u8 p 1 = 0 ∧ (47 < u8 p 2 ∨ 31 < u8 p 3 ∨ u8 p 4 = 0 ∨ 16 < u8 p 4)) then
        ⟨.outOfRange, [], s⟩
      else ⟨.ok, [],
        if u8 p 0 = 0 then { s with context := { s.context with high0 := highlightOf p } }
        else { s with context := { s.context with high1 := highlightOf p } }⟩ := by
  rw [carryHighlight, parseHighlight_eq]
  refine if_congr Iff.rfl rfl ?_
  by_cases hr : 1 < u8 p 0 ∨ 1 < u8 p 1 ∨ (u8 p 1 = 0 ∧ (47 < u8 p 2 ∨ 31 < u8 p 3 ∨ u8 p 4 = 0 ∨ 16 < u8 p 4))
  · simp only [if_pos hr]; rfl
  · simp only [if_neg hr]
    obtain h | h : u8 p 0 = 0 ∨ u8 p 0 = 1 := by omega
    all_goals rw [h]; rfl

theorem parseBacklight_eq (p : List Byte) :
    parseBacklight p = if 1 < u8 p 0 then none else some (if u8 p 0 = 0 then some (byteAt p 1) else none) := by
  unfold parseBacklight
  obtain h | h | ⟨n, h⟩ := eq_zero_or_one_or_above (u8 p 0)
  · rw [h]; rfl
  · rw [h]; rfl
  · rw [h, if_pos (by omega)]; rfl

theorem carryBacklight_eq {f : Frame} (p : List Byte) (hf : s.frame = some f) :
    carryBacklight p s =
      if p.length ≠ 2 then ⟨.badLength, [], s⟩
      else if 1 < u8 p 0 then ⟨.outOfRange, [], s⟩
      else ⟨.ok,
        [s.output.level, if s.output.panel = .present then 1 else 0, f.snap.target, if u8 p 0 = 0 then 1 else 0,
          if u8 p 0 = 0 then byteAt p 1 else 0],
        { s with output := { s.output with override := if u8 p 0 = 0 then some (byteAt p 1) else none } }⟩ := by
  rw [carryBacklight, parseBacklight_eq]
  refine if_congr Iff.rfl rfl ?_
  by_cases hr : 1 < u8 p 0
  · simp only [if_pos hr]; rfl
  · simp only [if_neg hr, backlightData, resolvedTarget, hf]
    cases hp : s.output.panel <;> by_cases h0 : u8 p 0 = 0 <;> simp only [h0, if_true, if_false] <;> rfl

end

/-- Settles O23. -/
theorem overrideCommandsHoldOrRelease : Obligations.OverrideCommandsHoldOrRelease := by
  refine fun s f h p hf => ⟨fun hT => ?force, fun hT => ?highlight, fun hT => ?backlight⟩
  case force => rw [execForce_taken hT, carryForce_eq]; rfl
  case highlight => rw [execHighlight_taken hT, carryHighlight_eq]; rfl
  case backlight => rw [execBacklight_taken hT, carryBacklight_eq (s := s.begin) p hf]; rfl

/-! ### CONFIG_PUT and GAMMA_PUT -/

section
variable {p : List Byte}

theorem readChannel_cases {n : Nat} {ch : GammaChannel} (h : readChannel n = some ch) :
    (n = 0 ∧ ch = .red) ∨ (n = 1 ∧ ch = .green) ∨ (n = 2 ∧ ch = .blue) := by
  unfold readChannel at h
  split at h <;> simp_all

/-- A gamma table of 256 entries after the entries of a payload have been written (R159). -/
theorem writeRun_codesOf {l : List PanelCode} (hl : l.length = 256) (hr : ¬ GammaRefused p) (i : Nat) :
    (writeRun (u16 p 1) (codesOf p) l)[i]? =
      if u16 p 1 ≤ i ∧ i < u16 p 1 + u8 p 3 then some (BitVec.ofNat 10 (u16 p (4 + 2 * (i - u16 p 1)))) else l[i]? := by
  have hlen : (codesOf p).length = u8 p 3 := by simp [codesOf]
  have hfit : u16 p 1 + (codesOf p).length ≤ l.length := by
    rw [hlen, hl]
    unfold GammaRefused at hr
    omega
  rw [writeRun_getElem _ _ _ _ hfit, hlen]
  refine ite_congr rfl (fun hi => ?_) fun _ => rfl
  have hi' : i - u16 p 1 < u8 p 3 := by omega
  simp [codesOf, hi']

/-- The three gamma tables after the entries of a payload have been written in one of them. -/
theorem writeGamma_entries {g : GammaTables} {ch : GammaChannel} (hred : g.red.length = 256) (hgreen : g.green.length = 256)
    (hblue : g.blue.length = 256) (hr : ¬ GammaRefused p) (hch : readChannel (u8 p 0) = some ch) {c : Nat}
    {old new : List PanelCode}
    (h : (c = 0 ∧ old = g.red ∧ new = (writeGamma g ch (u16 p 1) (codesOf p)).red) ∨
      (c = 1 ∧ old = g.green ∧ new = (writeGamma g ch (u16 p 1) (codesOf p)).green) ∨
      (c = 2 ∧ old = g.blue ∧ new = (writeGamma g ch (u16 p 1) (codesOf p)).blue)) (i : Nat) :
    new[i]? =
      if c = u8 p 0 ∧ u16 p 1 ≤ i ∧ i < u16 p 1 + u8 p 3 then
        some (BitVec.ofNat 10 (u16 p (4 + 2 * (i - u16 p 1))))
      else old[i]? := by
  have written : ∀ l : List PanelCode, l.length = 256 → c = u8 p 0 →
      (writeRun (u16 p 1) (codesOf p) l)[i]? =
        if c = u8 p 0 ∧ u16 p 1 ≤ i ∧ i < u16 p 1 + u8 p 3 then
          some (BitVec.ofNat 10 (u16 p (4 + 2 * (i - u16 p 1)))) else l[i]? := fun l hl hc => by
    rw [writeRun_codesOf hl hr, hc]
    simp
  obtain ⟨h0, rfl⟩ | ⟨h0, rfl⟩ | ⟨h0, rfl⟩ := readChannel_cases hch <;>
    obtain ⟨rfl, rfl, rfl⟩ | ⟨rfl, rfl, rfl⟩ | ⟨rfl, rfl, rfl⟩ := h
  · exact written _ hred h0.symm
  · rw [if_neg (by omega)]; rfl
  · rw [if_neg (by omega)]; rfl
  · rw [if_neg (by omega)]; rfl
  · exact written _ hgreen h0.symm
  · rw [if_neg (by omega)]; rfl
  · rw [if_neg (by omega)]; rfl
  · rw [if_neg (by omega)]; rfl
  · exact written _ hblue h0.symm

end

/-- Settles O24: past its length each command is what its reader answers for the payload. -/
theorem configAndGammaWriteWholeOrNothing : Obligations.ConfigAndGammaWriteWholeOrNothing := by
  intro s h p
  refine ⟨fun hT => ?config, fun hT hsize => ?gamma⟩
  case config =>
    rw [execConfigPut_taken hT]
    refine ⟨fun hl => ?_, fun hl hr => ?_, fun hl hr => ?_⟩
    · rw [carryConfigPut, if_pos hl]; rfl
    · rw [carryConfigPut, if_neg (not_not.2 hl), parseSettings_none p hr]; rfl
    · obtain ⟨n, hn, hrange, henc⟩ := parseSettings_some p hl hr
      refine ⟨n, hrange, henc, ?_⟩
      rw [carryConfigPut, if_neg (not_not.2 hl), hn]
      rfl
  case gamma =>
    rw [execGammaPut_taken hT]
    refine ⟨fun hl => ?_, fun hl hl' hr => ?_, fun hl hl' hr => ?_⟩
    · rw [carryGammaPut, if_pos hl]; rfl
    · rw [carryGammaPut, if_neg (by omega), parseGamma_none p hr]; rfl
    · obtain ⟨ch, hch, hp⟩ := parseGamma_some p hr
      refine ⟨writeGamma s.output.gamma ch (u16 p 1) (codesOf p), ?_, fun i c old new hc _ => ?_⟩
      · rw [carryGammaPut, if_neg (by omega), hp]
        rfl
      · obtain ⟨-, -, -, hred, hgreen, hblue⟩ := hsize
        exact writeGamma_entries hred hgreen hblue hr hch hc i

/-! ### PHOTO_OPEN and PHOTO_DROP -/

theorem readKey_eq (p : List Byte) :
    readKey p = if 1 < u8 p 5 then none else some (if u8 p 5 = 1 then some (colorAt p 6) else none) := by
  rw [readKey, readFlag_eq]
  by_cases h : 1 < u8 p 5
  · rw [if_pos h, if_neg (by omega)]; rfl
  · rw [if_neg h, if_pos (by omega)]
    simp

theorem carryPhotoOpen_eq (p : List Byte) (s : State) :
    carryPhotoOpen p s =
      if p.length ≠ 9 then ⟨.badLength, [], s⟩
      else if (tget s.photos.directory (u8 p 0)).isSome then ⟨.inUse, [], s⟩
      else if u16 p 1 = 0 ∨ 512 < u16 p 1 ∨ u16 p 3 = 0 ∨ 512 < u16 p 3 ∨ 1 < u8 p 5 then ⟨.outOfRange, [], s⟩
      else if s.photos.free.length < blocksNeeded (u16 p 1) (u16 p 3) then ⟨.noSpace, [], s⟩
      else ⟨.ok, put16 (s.photos.free.length - blocksNeeded (u16 p 1) (u16 p 3)),
        { s with
          photos :=
            { s.photos with
              directory :=
                tput s.photos.directory (u8 p 0)
                  (newPhoto (u16 p 1) (u16 p 3) (if u8 p 5 = 1 then some (colorAt p 6) else none)
                    (s.photos.free.take (blocksNeeded (u16 p 1) (u16 p 3))))
              free := s.photos.free.drop (blocksNeeded (u16 p 1) (u16 p 3)) } }⟩ := by
  rw [carryPhotoOpen, readKey_eq]
  refine if_congr Iff.rfl rfl (if_congr Iff.rfl rfl ?_)
  by_cases hsize : u16 p 1 = 0 ∨ 512 < u16 p 1 ∨ u16 p 3 = 0 ∨ 512 < u16 p 3
  · rw [if_pos hsize, if_pos (by omega)]; rfl
  rw [if_neg hsize]
  by_cases hkey : 1 < u8 p 5
  · simp only [if_pos hkey]
    rw [if_pos (by omega)]
    rfl
  have hok : ¬ (u16 p 1 = 0 ∨ 512 < u16 p 1 ∨ u16 p 3 = 0 ∨ 512 < u16 p 3 ∨ 1 < u8 p 5) := by omega
  simp only [if_neg hkey, if_neg hok, List.length_drop]
  rfl

theorem dropStrips_inFlight (c : CaptureEngine) (id : Nat) :
    (dropStrips c id).inFlight = c.inFlight.filter fun q => !isStripOf id q.request := by
  obtain ⟨queue, _ | f⟩ := c
  · rfl
  · by_cases h : isStripOf id f.request <;> simp [dropStrips, flyingStrip, Option.filter, h]

section
variable {p : List Byte} {s : State} {r : PhotoRec}

/-- What PHOTO_DROP leaves of a photo that nothing refers to (R94). -/
theorem carryPhotoDrop_dropped (hl : p.length = 1) (hget : tget s.photos.directory (u8 p 0) = some r)
    (huse : s.photos.refCounts.getD (u8 p 0) 0 = 0) :
    carryPhotoDrop p s =
      ⟨.ok, put16 (s.photos.free.length + r.blocks.length),
        { s with
          photos := { s.photos with directory := tdrop s.photos.directory (u8 p 0), free := s.photos.free ++ r.blocks }
          capture := dropStrips s.capture (u8 p 0)
          lane :=
            { s.lane with
              events :=
                if (allRequests s.capture).any (isStripOf (u8 p 0)) then { s.lane.events with captureFailed := true }
                else s.lane.events } }⟩ := by
  rw [carryPhotoDrop, if_neg (not_not.2 hl), hget]
  simp only [referenceCount, huse, Nat.lt_irrefl, if_false, raiseIf_eq, List.length_append]
  rfl

end

/-- Settles O25. -/
theorem photoOpenAndDropMoveBlocks : Obligations.PhotoOpenAndDropMoveBlocks := by
  refine ⟨fun s h p hT => ?opens, fun s h p hT => ⟨fun hl => ?length, fun hl hget => ?notFound, fun r hl hget =>
    ⟨fun huse => ?inUse, fun huse => ?drop⟩⟩⟩
  case opens => rw [execPhotoOpen_taken hT, carryPhotoOpen_eq]; rfl
  case length => rw [execPhotoDrop_taken hT, carryPhotoDrop, if_pos hl]; rfl
  case notFound =>
    have hget' : tget s.begin.photos.directory (u8 p 0) = none := hget
    rw [execPhotoDrop_taken hT, carryPhotoDrop, if_neg (not_not.2 hl), hget']
    rfl
  case inUse =>
    have hget' : tget s.begin.photos.directory (u8 p 0) = some r := hget
    have huse' : 0 < referenceCount s.begin (u8 p 0) := huse
    rw [execPhotoDrop_taken hT, carryPhotoDrop, if_neg (not_not.2 hl), hget']
    simp only [if_pos huse']
    rfl
  case drop =>
    refine ⟨_, dropStrips s.capture (u8 p 0), _, ?_, tget_tdrop s.photos.directory (u8 p 0), rfl,
      dropStrips_inFlight s.capture (u8 p 0), rfl⟩
    rw [execPhotoDrop_taken hT, carryPhotoDrop_dropped (s := s.begin) hl hget huse]
    rfl

end Sys2Proof.Machine
end

section
/-! The capture commands: CAPTURE (R100), GLYPH_LOAD (R98) and CAPTURE_FLUSH (R109) are settled here. -/

namespace Sys2Proof.Machine

section
variable {p : List Byte} {s : State}

/-! ### CAPTURE -/

theorem not_captureInRange_iff (p : List Byte) (r : PhotoRec) :
    (!captureInRange p r) = true ↔
      u16 p 7 = 0 ∨ 512 < u16 p 7 ∨ r.h < u16 p 5 + u16 p 7 ∨ 8191 < u16 p 1 ∨ 4095 < u16 p 3 ∨ 8192 < u16 p 1 + r.w ∨
        4096 < u16 p 3 + u16 p 7 := by
  simp only [captureInRange, Bool.not_eq_true', ← Bool.not_eq_true, Bool.and_eq_true, decide_eq_true_iff]
  omega

theorem carryCapture_eq {r : PhotoRec} (hl : p.length = 9) (hget : tget s.photos.directory (u8 p 0) = some r) :
    carryCapture p s =
      if r.state = .ready then ⟨.wrongState, [], s⟩
      else if u16 p 7 = 0 ∨ 512 < u16 p 7 ∨ r.h < u16 p 5 + u16 p 7 ∨ 8191 < u16 p 1 ∨ 4095 < u16 p 3 ∨
          8192 < u16 p 1 + r.w ∨ 4096 < u16 p 3 + u16 p 7 then ⟨.outOfRange, [], s⟩
      else if u16 p 5 ≠ r.rowsFilled + (((allRequests s.capture).filter (isStripOf (u8 p 0))).map stripRows).sum then
        ⟨.rowOrder, [], s⟩
      else if 4 ≤ s.capture.queue.length then ⟨.queueFull, [], s⟩
      else ⟨.ok, [],
        { s with
          capture :=
            { s.capture with
              queue := s.capture.queue ++ [.strip (u8 p 0) (u16 p 1) (u16 p 3) (u16 p 5) (u16 p 7)] } }⟩ := by
  rw [carryCapture, if_neg (not_not.2 hl), hget]
  exact if_congr Iff.rfl rfl (if_congr (not_captureInRange_iff p r) rfl rfl)

/-! ### GLYPH_LOAD -/

theorem not_glyphInRange_iff (p : List Byte) :
    (!glyphInRange p) = true ↔
      3 < u8 p 0 ∨ 11 < u8 p 1 ∨ u8 p 6 = 0 ∨ 64 < u8 p 6 ∨ u8 p 7 = 0 ∨ 96 < u8 p 7 ∨ 8191 < u16 p 2 ∨ 4095 < u16 p 4 ∨
        8192 < u16 p 2 + u8 p 6 ∨ 4096 < u16 p 4 + u8 p 7 := by
  simp only [glyphInRange, Bool.not_eq_true', ← Bool.not_eq_true, Bool.and_eq_true, decide_eq_true_iff]
  omega

theorem carryGlyphLoad_eq (p : List Byte) (s : State) :
    carryGlyphLoad p s =
      if p.length ≠ 8 then ⟨.badLength, [], s⟩
      else if 3 < u8 p 0 ∨ 11 < u8 p 1 ∨ u8 p 6 = 0 ∨ 64 < u8 p 6 ∨ u8 p 7 = 0 ∨ 96 < u8 p 7 ∨ 8191 < u16 p 2 ∨
          4095 < u16 p 4 ∨ 8192 < u16 p 2 + u8 p 6 ∨ 4096 < u16 p 4 + u8 p 7 then ⟨.outOfRange, [], s⟩
      else if 0 < columnGet s.glyphs.useCounts (u8 p 0) then ⟨.inUse, [], s⟩
      else if slotLoading (s.glyphs.slots.getD (u8 p 0 * 12 + u8 p 1) .empty) = true then ⟨.wrongState, [], s⟩
      else if 4 ≤ s.capture.queue.length then ⟨.queueFull, [], s⟩
      else ⟨.ok, [],
        { s with
          glyphs := { s.glyphs with slots := s.glyphs.slots.set (u8 p 0 * 12 + u8 p 1) (.loading []) }
          capture :=
            { s.capture with
              queue := s.capture.queue ++ [.glyph (u8 p 0) (u8 p 1) (u16 p 2) (u16 p 4) (u8 p 6) (u8 p 7)] } }⟩ := by
  rw [carryGlyphLoad]
  exact if_congr Iff.rfl rfl (if_congr (not_glyphInRange_iff p) rfl rfl)

/-! ### CAPTURE_FLUSH -/

/-- The directory after CAPTURE_FLUSH, photo by photo (R109). -/
theorem tget_flushPhoto (requests : List CaptureRequest) (t : Table PhotoRec) (id : Nat) :
    tget (t.map (flushPhoto requests)) id =
      (tget t id).map fun r =>
        if requests.any (isStripOf id) then
          { r with last := .flushed, skipped := (requests.filter (isStripOf id)).length - 1 }
        else r := by
  rw [← tget_map t fun id r =>
    if requests.any (isStripOf id) then
      { r with last := .flushed, skipped := (requests.filter (isStripOf id)).length - 1 } else r]
  refine congrArg (tget · id) (List.map_congr_left fun e _ => ?_)
  have hany : (requests.filter (isStripOf e.1)).length = 0 ↔ ¬ requests.any (isStripOf e.1) = true := by
    simp [List.length_eq_zero_iff, List.filter_eq_nil_iff]
  by_cases h : requests.any (isStripOf e.1) = true
  · rw [flushPhoto, if_neg (fun h0 => hany.1 h0 h), if_pos h]
  · rw [flushPhoto, if_pos (hany.2 h), if_neg h]

/-- The slots after CAPTURE_FLUSH: EMPTY where a glyph load among the ended requests names the place (R109). -/
theorem flushSlots_getElem? (requests : List CaptureRequest) {l : List GlyphSlot} {place : Nat} (h : place < l.length) :
    (flushSlots requests l)[place]? = if requests.any (isLoadOf place) then some .empty else l[place]? := by
  induction requests generalizing l with
  | nil => rfl
  | cons q requests ih =>
    cases q with
    | strip photo x y row rows => rw [flushSlots, ih h]; rfl
    | glyph font slot x y w h' =>
      rw [flushSlots, ih (by simpa using h), List.any_cons, isLoadOf]
      by_cases hp : slotIndex font slot = place
      · subst hp
        simp [List.getElem?_set_self h]
      · simp [hp, List.getElem?_set_ne hp]

theorem carryCaptureFlush_nil (s : State) :
    carryCaptureFlush [] s =
      ⟨.ok, [BitVec.ofNat 8 (allRequests s.capture).length],
        { s with
          photos := { s.photos with directory := s.photos.directory.map (flushPhoto (allRequests s.capture)) }
          glyphs := { s.glyphs with slots := flushSlots (allRequests s.capture) s.glyphs.slots }
          capture := ⟨[], none⟩
          lane :=
            { s.lane with
              events :=
                if allRequests s.capture = [] then s.lane.events
                else { s.lane.events with captureFailed := true } } }⟩ := by
  rw [carryCaptureFlush, if_neg (by simp)]
  simp only [raiseIf_eq]
  cases allRequests s.capture <;> rfl

end

/-- Settles O26. -/
theorem captureCommandsQueueOrEndRequests : Obligations.CaptureCommandsQueueOrEndRequests := by
  refine ⟨fun s h p => ⟨fun hT => ⟨fun hl => ?length, fun hl hget => ?notFound, fun r hl hget => ?capture⟩,
    fun hT => ?glyphLoad⟩, fun s h p hT hsize => ⟨fun hp => ?flushLength, fun hp => ?flush⟩⟩
  case length => rw [execCapture_taken hT, carryCapture, if_pos hl]; rfl
  case notFound =>
    have hget' : tget s.begin.photos.directory (u8 p 0) = none := hget
    rw [execCapture_taken hT, carryCapture, if_neg (not_not.2 hl), hget']
    rfl
  case capture => rw [execCapture_taken hT, carryCapture_eq (s := s.begin) hl hget]; rfl
  case glyphLoad => rw [execGlyphLoad_taken hT, carryGlyphLoad_eq]; rfl
  case flushLength =>
    rw [execCaptureFlush_taken hT, carryCaptureFlush, if_pos (by simpa using hp)]
    rfl
  case flush =>
    subst hp
    obtain ⟨-, -, hslots, -⟩ := hsize
    refine ⟨_, _, _, ?_, tget_flushPhoto (allRequests s.capture) s.photos.directory,
      fun place hplace => flushSlots_getElem? (allRequests s.capture) (by rwa [hslots]), rfl⟩
    rw [execCaptureFlush_taken hT, carryCaptureFlush_nil]
    rfl

end Sys2Proof.Machine
end

section
/-! The machine and its reset: the queue of commands (O1), the state after reset (O2), NODE_RESET and RESTRAP (R183, R190–R192), RESETn
(R193), the gap timer and the clock (R148, R150, R154). -/

namespace Sys2Proof.Machine

/-! ### The queue of commands -/

theorem Carried.pending {s t : State} (h : Carried s t) : t.pending = s.pending := by
  cases h <;> simp [staging, resetTables, resetFull, resetBlocks]

theorem acceptForwarded_pending (s : State) : (acceptForwarded s).pending = s.pending := by
  unfold acceptForwarded
  split <;> rfl

theorem receiveRecord_pending (s : State) (bs : List Byte) : (receiveRecord s bs).pending = s.pending := by
  unfold receiveRecord
  split
  · rfl
  · simp only
    split
    · rfl
    · rw [acceptForwarded_pending]

theorem keeps_pending (l : List Instr) : Keeps fun s => s.pending = l where
  ports _ _ _ h := h
  receiver _ _ h := h
  raise _ _ h := h
  join s k h := by simpa using h
  take s k rest h _ _ :=
    takePacket_keeps (P := fun s => s.pending = l) (fun _ _ h => h) (fun _ _ hc h => hc.pending.trans h)
      (s := { s with intake := rest }) h k
  header s b h := by simpa using h
  headerTimer s h _ := by simpa using h
  localTimer s h _ := by simpa using h
  stop s h := by simpa using h
  active s b h := by simpa using h
  localLine s h := by simpa using h
  gap _ h := h
  tick _ h := h
  hold _ _ h := h
  sending _ _ h := h
  freed _ _ _ _ h _ := h
  accept _ _ _ _ h _ := (acceptForwarded_pending _).trans h
  receive s bs h := (receiveRecord_pending s bs).trans h
  holdReset _ h := h
  releaseReset _ h := h

/-- Settles O1: no operation of the rows touches the queue of commands (`keeps_pending`). -/
theorem stepRunsFrontCommand : Obligations.StepRunsFrontCommand :=
  ⟨fun _ _ _ => step_cons, fun _ => step_idle, fun _ s _ he => (keeps_pending s.pending).exec rfl he⟩

/-! ### The state after reset -/

theorem blocksPartitioned_of_memory {q : PhotoStore} {m : List Host.Cell} (h : BlocksPartitioned { q with memory := m }) :
    BlocksPartitioned q := h

/-- Settles O2, clause by clause of `Safe`. -/
theorem resetStateIsSafe : Obligations.ResetStateIsSafe := by
  refine ⟨?queues, reset_timingInRange, reset_panelSafe, ?take, ?blocks, ?sized, ?strips, reset_memory_wf,
    ?stores, ⟨emptyBank_sorted, emptyBank_sorted⟩, reset_recordsInRange rfl rfl⟩
  case queues => simp [QueuesBounded, State.reset]
  case take => simp [TakeSafe, State.reset]
  case blocks =>
    exact blocksPartitioned_of_memory (m := []) (reset_blocksPartitioned [])
  case sized => simp [PhotosSized, State.reset]
  case strips => simp [StripsInPhotos, State.reset, allRequests]
  case stores =>
    exact ⟨stockAllAvailable_length, List.length_replicate, List.length_replicate, defaultGamma_length, defaultGamma_length,
      defaultGamma_length⟩

/-! ### NODE_RESET, RESTRAP and unassigned codes -/

section
variable {s : State} {p : List Byte}

theorem carryNodeReset_refused (h : p.length ≠ 1 ∨ 1 < u8 p 0) : (carryNodeReset p s).state = s := by
  rw [carryNodeReset]
  by_cases hl : p.length ≠ 1
  · rw [if_pos hl]; rfl
  · obtain h0 | h0 | ⟨n, h0⟩ := eq_zero_or_one_or_above (u8 p 0)
    · omega
    · omega
    · rw [if_neg hl, h0]; rfl

theorem carryRestrap_eq (p : List Byte) (s : State) :
    (carryRestrap p s).state =
      if p = [] ∧ s.lane.conflict = true then
        { s with lane := { s.lane with address := s.pins.straps, conflict := false } }
      else s := by
  rw [carryRestrap]
  cases p with
  | nil => cases hc : s.lane.conflict <;> simp [done]
  | cons b p => simp [refuse]

theorem carryOut_unassigned {code : Byte} (h : code ∉ assignedCodes) (p : List Byte) (s : State) :
    carryOut code p s = ⟨.unknownCommand, [], s⟩ := by
  have hmem : BitVec.ofNat 8 code.toNat ∉ assignedCodes := by simpa using h
  unfold carryOut
  split
  case h_27 => rfl
  all_goals
    next hcode =>
      rw [hcode] at hmem
      exact absurd (by decide) hmem

end

/-- Settles O31: what the two scopes leave is `resetTables` and `resetFull`, written out. -/
theorem nodeResetsRestrapAndUnknownCommands : Obligations.NodeResetsRestrapAndUnknownCommands := by
  refine ⟨fun s h p pins => ⟨fun hT => ⟨?tables, ?full⟩, fun hT hp => ⟨?refusedTables, ?refusedFull⟩, fun hT => ?restrap⟩,
    fun s h code p hT hc => ?unknown⟩
  case tables =>
    rw [execNodeResetTables_taken hT]
    change Host.Outcome.next (resetTables s.begin) = _
    rw [resetTables, raiseIf_eq]
    rfl
  case full =>
    rw [execNodeResetFull_taken hT]
    change Host.Outcome.next (resetFull (s.begin.latch pins)) = _
    rw [resetFull, raiseIf_eq]
    refine congrArg Host.Outcome.next ?_
    cases hp : s.tables.pendingTake <;> simp [resetBlocks, hp] <;> exact ⟨rfl, rfl, rfl⟩
  case refusedTables => rw [execNodeResetTables_taken hT, carryNodeReset_refused hp]
  case refusedFull => rw [execNodeResetFull_taken hT, carryNodeReset_refused hp]; rfl
  case restrap =>
    rw [execRestrap_taken hT, carryRestrap_eq]
    rfl
  case unknown =>
    rw [exec_takenAtOnce rfl hT, carryOut_unassigned hc]
    rfl

/-! ### RESETn, the gap timer and the clock -/

/-- Settles O34. -/
theorem resetPinHoldsAndReleasesTheNode : Obligations.ResetPinHoldsAndReleasesTheNode := by
  refine fun s pins => ⟨fun hr => ?assert, fun hr => ?release⟩
  case assert =>
    change execResetnAssert s = _
    rw [execResetnAssert, hr]
    rfl
  case release =>
    change execResetnRelease pins s = _
    rw [execResetnRelease, hr]
    rfl

/-- One second later, with carries (R154). -/
theorem tickClock_spec (t : FrameTiming) (h : TimingInRange t) :
    ∃ hour minute second, tickClock t = { t with hour := hour, minute := minute, second := second } ∧ hour < 24 ∧
      minute < 60 ∧ second < 60 ∧
      (hour * 3600 + minute * 60 + second) % 86400 = (t.hour * 3600 + t.minute * 60 + t.second + 1) % 86400 := by
  obtain ⟨-, -, hh, hm, hs, -, -⟩ := h
  unfold tickClock
  split
  · exact ⟨t.hour, t.minute, t.second + 1, rfl, by omega, by omega, by omega, by omega⟩
  split
  · exact ⟨t.hour, t.minute + 1, 0, rfl, by omega, by omega, by omega, by omega⟩
  split
  · exact ⟨t.hour + 1, 0, 0, rfl, by omega, by omega, by omega, by omega⟩
  · exact ⟨0, 0, 0, rfl, by omega, by omega, by omega, by omega⟩

/-- Settles O46. -/
theorem gapTimerAndClockAdvance : Obligations.GapTimerAndClockAdvance := by
  refine fun s => ⟨?gap, fun hr ht => ?clock⟩
  case gap =>
    change execGapTimerExpires s = _
    unfold execGapTimerExpires
    cases s.timing.headerTimer <;> cases s.timing.link <;> rfl
  case clock =>
    obtain ⟨hour, minute, second, he, hh, hm, hs, hsum⟩ := tickClock_spec s.timing ht
    refine ⟨{ s.begin with timing := tickClock s.timing }, ?_, ?_⟩
    · change execClockSecondTick s = _
      rw [execClockSecondTick, hr]
      rfl
    · simp only [he]
      exact ⟨trivial, hh, hm, hs, hsum⟩

end Sys2Proof.Machine
end

section
/-! The queries (R186, section 11.8): what a query answers is its data, and a field of the data is read where its part of the data
stands. -/

namespace Sys2Proof.Machine

/-! ### What a query answers -/

/-- The arguments R186 refuses OUT_OF_RANGE. -/
def QueryRefused (p : List Byte) : Prop :=
  (u8 p 0 = 1 ∧ 511 < u16 p 1) ∨ (u8 p 0 = 2 ∧ (7 < u16 p 1 ∨ 47 < u8 p 3)) ∨ (u8 p 0 = 3 ∧ 255 < u16 p 1) ∨
    (u8 p 0 = 6 ∧ 3 < u16 p 1)

/-- A query of a payload names its kind, and its arguments stand in their ranges. -/
inductive QueryNames (p : List Byte) : Query → Prop where
  | node : u8 p 0 = 0 → QueryNames p .node
  | item : u8 p 0 = 1 → u16 p 1 ≤ 511 → QueryNames p (.item (u16 p 1))
  | tile : u8 p 0 = 2 → u16 p 1 ≤ 7 → u8 p 3 ≤ 47 → QueryNames p (.tile (u16 p 1) (u8 p 3))
  | photo : u8 p 0 = 3 → u16 p 1 ≤ 255 → QueryNames p (.photo (u16 p 1))
  | staging : u8 p 0 = 4 → QueryNames p .staging
  | schedule : u8 p 0 = 5 → QueryNames p .schedule
  | glyph : u8 p 0 = 6 → u16 p 1 ≤ 3 → QueryNames p (.glyph (u16 p 1))

section
variable {p : List Byte} {q : Query} {s : State} {i : Instr} {h : PacketHead}

theorem parseQuery_none (hr : QueryRefused p) : parseQuery p = none := by
  obtain ⟨h0, h⟩ | ⟨h0, h⟩ | ⟨h0, h⟩ | ⟨h0, h⟩ := hr
  all_goals
    rw [parseQuery, h0]
    simp only [Config.itemIds, Config.pageCount, Config.tilesPerPage, Config.photoIds]
    exact if_neg (by omega)

theorem parseQuery_some (hq : QueryNames p q) : parseQuery p = some q := by
  cases hq with
  | node h0 => rw [parseQuery, h0]; rfl
  | item h0 h => rw [parseQuery, h0]; exact if_pos (Nat.lt_succ_of_le h)
  | tile h0 h h' => rw [parseQuery, h0]; exact if_pos ⟨Nat.lt_succ_of_le h, Nat.lt_succ_of_le h'⟩
  | photo h0 h => rw [parseQuery, h0]; exact if_pos (Nat.lt_succ_of_le h)
  | staging h0 => rw [parseQuery, h0]; rfl
  | schedule h0 => rw [parseQuery, h0]; rfl
  | glyph h0 h => rw [parseQuery, h0]; exact if_pos h

/-- A query row whose packet is taken as it joins reads the state it finds. -/
theorem exec_query (hi : packetOf i = some ⟨h, 0x40, p⟩) (hb : entered s i = s.begin) (hT : TakenAtOnce s h 0x40)
    (hl : p.length = 4) (hq : QueryNames p q) :
    exec i s = .next (closing s ⟨h, 0x40, p⟩ ⟨.ok, queryData s.begin q, s.begin⟩) := by
  rw [exec_takenAtOnce hi hT, hb]
  change Host.Outcome.next (closing s _ (carryQuery p s.begin)) = _
  rw [carryQuery, if_neg (not_not.2 hl), parseQuery_some hq]
  rfl

end

/-! ### The sizes of the data -/

theorem put8_length (n : Nat) : (put8 n).length = 1 := rfl

theorem put16_length (n : Nat) : (put16 n).length = 2 := rfl

theorem putS16_length (i : Int) : (putS16 i).length = 2 := rfl

theorem tileItemBytes_length (o : Option Nat) : (tileItemBytes o).length = 3 := by cases o <;> rfl

theorem contentBytes_length (b : TileBody) : (contentBytes b).length = 6 := by
  cases b with
  | photo own ox oy => cases own <;> rfl
  | _ => rfl

theorem fillBytes_length (o : Option Fill) : (fillBytes o).length = 5 := by cases o <;> rfl

theorem styleBytes_length (b : TileBody) : (styleBytes b).length = 9 := by cases b <;> rfl

theorem encodeTile_length (page id : Nat) (t : TileRec) : (encodeTile page id t).length = 39 := by
  simp only [encodeTile_eq, List.length_append, put8_length, put16_length, putS16_length, tileItemBytes_length,
    contentBytes_length, fillBytes_length, styleBytes_length, List.length_singleton]

theorem presentOr_length {size : Nat} {o : Option (List Byte)} (h : ∀ r, o = some r → r.length = size) :
    (presentOr size o).length = 1 + size := by
  cases o with
  | none => exact List.length_replicate
  | some r => rw [presentOr, List.length_append, h r rfl]; rfl

theorem itemView_length (snap : Snapshot) (id : Nat) : (itemView snap id).length = 8 := by
  unfold itemView
  split
  · rfl
  · split <;> rfl

theorem photoView_length (o : Option PhotoRec) : (photoView o).length = 13 := by
  cases o with
  | none => rfl
  | some r =>
    obtain ⟨state, w, h, key, blocks, filled, last, skipped⟩ := r
    cases key <;> rfl

theorem auditView_length (r : AuditResult) : (auditView r).length = 8 := by
  cases r with
  | failed check failure => cases failure <;> rfl
  | _ => rfl

theorem progressView_length (o : Option AuditProgress) : (progressView o).length = 2 := by cases o <;> rfl

theorem scheduleView_length (snap : Snapshot) : (scheduleView snap).length = 13 := by
  unfold scheduleView
  split <;> rfl

theorem overrideView_length (o : Option Override) : (overrideView o).length = 3 := by cases o <;> rfl

theorem slotView_length (g : GlyphSlot) : (slotView g).length = 3 := by cases g <;> rfl

/-- The item records of a table, as QUERY sends them, are 37 bytes where they stand in their ranges. -/
theorem encodeItem_length_of_mem {t : Table ItemRec} (ht : ∀ e ∈ t, ItemInRange e.1 e.2) (id : Nat) {r : List Byte}
    (hr : (tget t id).map (encodeItem id) = some r) : r.length = 37 := by
  obtain ⟨item, hitem, rfl⟩ := Option.map_eq_some_iff.1 hr
  exact (itemAndTileRecordsReadBack.1 id item (ht _ (mem_of_tget hitem))).1

theorem encodeTile_length_of_map {t : Table TileRec} {key page id : Nat} {r : List Byte}
    (hr : (tget t key).map (encodeTile page id) = some r) : r.length = 39 := by
  obtain ⟨tile, -, rfl⟩ := Option.map_eq_some_iff.1 hr
  exact encodeTile_length page id tile

theorem flatMap_slotView_length (f : Nat → GlyphSlot) (l : List Nat) :
    (l.flatMap fun slot => slotView (f slot)).length = 3 * l.length := by
  induction l with
  | nil => rfl
  | cons n l ih => rw [List.flatMap_cons, List.length_append, slotView_length, ih, List.length_cons]; omega

/-- The size of the data of each kind of query (section 11.8). -/
def querySize : Query → Nat
  | .node => 39
  | .item _ => 85
  | .tile _ _ => 85
  | .photo _ => 17
  | .staging => 18
  | .schedule => 16
  | .glyph _ => 37

theorem queryData_length {s : State} (hi : ∀ e ∈ s.tables.live.items ++ s.tables.staged.items, ItemInRange e.1 e.2) (q : Query) :
    (queryData s q).length = querySize q := by
  cases q with
  | node => rfl
  | item id =>
    have hlive := presentOr_length fun _ =>
      encodeItem_length_of_mem (t := s.tables.live.items) (fun e he => hi e (List.mem_append_left _ he)) id
    have hstaged := presentOr_length fun _ =>
      encodeItem_length_of_mem (t := s.tables.staged.items) (fun e he => hi e (List.mem_append_right _ he)) id
    change (itemData s id).length = 85
    unfold itemData
    simp only [List.length_append, hlive, hstaged]
    cases s.frame with
    | none => rfl
    | some f => rw [itemView_length]; rfl
  | tile page id =>
    have hlive := presentOr_length fun _ =>
      encodeTile_length_of_map (t := s.tables.live.tiles) (key := tileKey page id) (page := page) (id := id)
    have hstaged := presentOr_length fun _ =>
      encodeTile_length_of_map (t := s.tables.staged.tiles) (key := tileKey page id) (page := page) (id := id)
    change (tileData s page id).length = 85
    unfold tileData
    simp only [List.length_append, hlive, hstaged]
    cases s.kept <;> rfl
  | photo id =>
    change (photoData s id).length = 17
    simp only [photoData, List.length_append, photoView_length]
    rfl
  | staging =>
    change (stagingData s).length = 18
    simp only [stagingData, List.length_append, auditView_length, progressView_length]
    cases s.tables.pendingTake <;> rfl
  | schedule =>
    change (scheduleData s).length = 16
    simp only [scheduleData, List.length_append, overrideView_length]
    cases s.frame with
    | none => rfl
    | some f => rw [scheduleView_length]
  | glyph font =>
    change (glyphData s font).length = 37
    rw [glyphData, List.length_append, flatMap_slotView_length]
    rfl

/-- Settles O27. -/
theorem queriesAnswerAndChangeNothing : Obligations.QueriesAnswerAndChangeNothing := by
  intro s i h p size hT hitems hkind
  obtain ⟨hi, hb⟩ : packetOf i = some ⟨h, 0x40, p⟩ ∧ entered s i = s.begin := by
    obtain ⟨rfl, -⟩ | ⟨rfl, -⟩ | ⟨rfl, -⟩ | ⟨rfl, -⟩ | ⟨rfl, -⟩ | ⟨rfl, -⟩ | ⟨rfl, -⟩ := hkind
    all_goals exact ⟨rfl, rfl⟩
  have hexec : exec i s = .next (closing s ⟨h, 0x40, p⟩ (carryQuery p s.begin)) := by
    rw [exec_takenAtOnce hi hT, hb]
    rfl
  refine ⟨fun hl => ?length, fun hl hr => ?refused, fun hl hr => ?answered⟩
  case length => rw [hexec, carryQuery, if_pos hl]; rfl
  case refused => rw [hexec, carryQuery, if_neg (not_not.2 hl), parseQuery_none hr]; rfl
  case answered =>
    obtain ⟨q, hq, hsize⟩ : ∃ q, QueryNames p q ∧ querySize q = size := by
      obtain ⟨-, h0, rfl⟩ | ⟨-, h0, rfl⟩ | ⟨-, h0, rfl⟩ | ⟨-, h0, rfl⟩ | ⟨-, h0, rfl⟩ | ⟨-, h0, rfl⟩ | ⟨-, h0, rfl⟩ := hkind
      · exact ⟨_, .node h0, rfl⟩
      · exact ⟨_, .item h0 (by omega), rfl⟩
      · exact ⟨_, .tile h0 (by omega) (by omega), rfl⟩
      · exact ⟨_, .photo h0 (by omega), rfl⟩
      · exact ⟨_, .staging h0, rfl⟩
      · exact ⟨_, .schedule h0, rfl⟩
      · exact ⟨_, .glyph h0 (by omega), rfl⟩
    exact ⟨queryData s.begin q, (queryData_length hitems q).trans hsize, exec_query hi hb hT hl hq⟩

end Sys2Proof.Machine
end

section
/-! What QUERY NODE, QUERY STAGING, QUERY PHOTO, QUERY SCHEDULE and QUERY GLYPH report, field by field (section 11.8). -/

namespace Sys2Proof.Machine

/-! ### Reading a field of query data -/

theorem toNat_ofNat_byte {n : Nat} (h : n < 256) : (BitVec.ofNat 8 n).toNat = n := by
  rw [BitVec.toNat_ofNat]
  exact Nat.mod_eq_of_lt h

theorem u8_put8 {n : Nat} (h : n < 256) : u8 (put8 n) 0 = n := toNat_ofNat_byte h

theorem u16_put16 {n : Nat} (h : n < 65536) : u16 (put16 n) 0 = n := by
  obtain ⟨a, b, hab, hn⟩ := put16_bytes h
  rw [hab]
  exact hn

theorem u8_putFlag (b : Bool) : u8 (putFlag b) 0 = if b then 1 else 0 := by cases b <;> rfl

theorem u8_putFlag_iff (b : Bool) : u8 (putFlag b) 0 = 1 ↔ b = true := by cases b <;> decide

theorem byteAt_zeros (n j : Nat) : byteAt (zeros n) j = 0 := by
  simp only [byteAt, zeros, List.getD, List.getElem?_replicate]
  split <;> rfl

theorem u16_eq_zero {p : List Byte} {o : Nat} (h : byteAt p o = 0) (h' : byteAt p (o + 1) = 0) : u16 p o = 0 := by
  rw [u16, u8, u8, h, h']
  rfl

theorem u8_panelCode_iff (x : PanelState) : u8 (put8 (panelCode x)) 0 = 1 ↔ x = .present := by cases x <;> decide

section
variable {d pre part post : List Byte} {o j : Nat}

/-- A byte of the data is a byte of the part that stands there. -/
theorem byteAt_part (hd : d = pre ++ (part ++ post)) (ho : pre.length = o) (hj : j < part.length) :
    byteAt d (o + j) = byteAt part j := by
  rw [hd, ← ho, byteAt_append, byteAt_append_left hj]

theorem u8_part (hd : d = pre ++ (part ++ post)) (ho : pre.length = o) (hj : j < part.length) : u8 d (o + j) = u8 part j :=
  congrArg BitVec.toNat (byteAt_part hd ho hj)

theorem u16_part (hd : d = pre ++ (part ++ post)) (ho : pre.length = o) (hj : j + 1 < part.length) :
    u16 d (o + j) = u16 part j := by
  rw [u16, u16, u8_part hd ho (by omega), Nat.add_assoc, u8_part hd ho hj]

/-- A part of zero bytes reads as zero bytes. -/
theorem byteAt_part_zeros {n : Nat} (hd : d = pre ++ (zeros n ++ post)) (ho : pre.length = o) (h : o ≤ j) (hj : j < o + n) :
    byteAt d j = 0 := by
  obtain ⟨k, rfl⟩ := Nat.exists_eq_add_of_le h
  rw [byteAt_part hd ho (by rw [zeros, List.length_replicate]; omega), byteAt_zeros]

end

/-- A set of checks or of flags in one byte: bit 0 is the last of them. -/
theorem bits_getLsbD (a b c d e : Bool) :
    let w : Byte := (0 : BitVec 3) ++ BitVec.ofBool e ++ BitVec.ofBool d ++ BitVec.ofBool c ++ BitVec.ofBool b ++ BitVec.ofBool a
    w.getLsbD 0 = a ∧ w.getLsbD 1 = b ∧ w.getLsbD 2 = c ∧ w.getLsbD 3 = d ∧ w.getLsbD 4 = e := by
  revert a b c d e
  decide

theorem maskByte_getLsbD (m : AuditMask) {j : Nat} {c : Bool}
    (h : (j, c) ∈ [(0, m.c1), (1, m.c2), (2, m.c3), (3, m.c4), (4, m.c5)]) : (maskByte m).getLsbD j = c := by
  obtain ⟨h0, h1, h2, h3, h4⟩ := bits_getLsbD m.c1 m.c2 m.c3 m.c4 m.c5
  simp only [List.mem_cons, List.not_mem_nil, or_false, Prod.mk.injEq] at h
  obtain ⟨rfl, rfl⟩ | ⟨rfl, rfl⟩ | ⟨rfl, rfl⟩ | ⟨rfl, rfl⟩ | ⟨rfl, rfl⟩ := h
  · exact h0
  · exact h1
  · exact h2
  · exact h3
  · exact h4

/-! ### QUERY NODE -/

/-- QUERY NODE's bytes before the settings. -/
def nodeBytes (s : State) : List Byte :=
  [BitVec.ofNat 8 s.lane.address.toNat, if s.lane.conflict then 1 else 0, BitVec.ofNat 8 (linkCode s.timing.link),
    BitVec.ofNat 8 s.timing.good, BitVec.ofNat 8 s.timing.miss, BitVec.ofNat 8 (s.timing.number.toNat / 256),
    BitVec.ofNat 8 s.timing.number.toNat, BitVec.ofNat 8 s.timing.hour, BitVec.ofNat 8 s.timing.minute,
    BitVec.ofNat 8 s.timing.second, if s.timing.timeValid then 1 else 0, BitVec.ofNat 8 s.intake.length,
    BitVec.ofNat 8 s.lane.queue.length, BitVec.ofNat 8 s.capture.queue.length, if s.capture.inFlight.isSome then 1 else 0,
    BitVec.ofNat 8 (panelCode s.output.panel), s.output.level]

theorem nodeData_eq (s : State) : nodeData s = nodeBytes s ++ encodeSettings s.context.settings := by
  simp only [nodeData, nodeBytes, put8, put16, putFlag, List.cons_append, List.nil_append]

theorem flag_toNat_iff (b : Bool) : (if b then (1 : Byte) else 0).toNat = 1 ↔ b = true := by cases b <;> decide

theorem nodeData_reads {s : State} (ht : TimingInRange s.timing) (hq : QueuesBounded s) :
    let d := nodeData s
    u8 d 0 = s.lane.address.toNat ∧ (u8 d 1 = 1 ↔ s.lane.conflict = true) ∧ u8 d 2 = linkCode s.timing.link ∧
      u8 d 3 = s.timing.good ∧ u8 d 4 = s.timing.miss ∧ u16 d 5 = s.timing.number.toNat ∧ u8 d 7 = s.timing.hour ∧
      u8 d 8 = s.timing.minute ∧ u8 d 9 = s.timing.second ∧ (u8 d 10 = 1 ↔ s.timing.timeValid = true) ∧
      u8 d 11 = s.intake.length ∧ u8 d 12 = s.lane.queue.length ∧ u8 d 13 = s.capture.queue.length ∧
      (u8 d 14 = 1 ↔ s.capture.inFlight.isSome = true) ∧ (u8 d 15 = 1 ↔ s.output.panel = .present) ∧
      byteAt d 16 = s.output.level ∧ d.drop 17 = encodeSettings s.context.settings := by
  obtain ⟨hgood, hmiss, hhour, hminute, hsecond, -, -⟩ := ht
  obtain ⟨hintake, hlane, hcapture⟩ := hq
  simp only [Config.intakeCapacity, Config.replyCapacity, Config.captureCapacity] at hintake hlane hcapture
  have haddress := s.lane.address.isLt
  have hlink : linkCode s.timing.link < 256 := by cases s.timing.link <;> decide
  rw [nodeData_eq]
  exact ⟨toNat_ofNat_byte (by omega), flag_toNat_iff _, toNat_ofNat_byte hlink, toNat_ofNat_byte (by omega),
    toNat_ofNat_byte (by omega), u16_put16 s.timing.number.isLt, toNat_ofNat_byte (by omega), toNat_ofNat_byte (by omega),
    toNat_ofNat_byte (by omega), flag_toNat_iff _, toNat_ofNat_byte (by omega), toNat_ofNat_byte (by omega),
    toNat_ofNat_byte (by omega), flag_toNat_iff _, u8_panelCode_iff _, rfl, rfl⟩

/-! ### QUERY STAGING -/

/-- The pending take of QUERY STAGING: presence, target and distance, five bytes (R189). -/
def pendingView (o : Option FrameNo) (number : FrameNo) : List Byte :=
  match o with
  | none => zeros 5
  | some t => putFlag true ++ put16 t.toNat ++ put16 (takeDistance t number)

theorem pendingView_length (o : Option FrameNo) (number : FrameNo) : (pendingView o number).length = 5 := by cases o <;> rfl

theorem pendingView_some (t number : FrameNo) :
    u8 (pendingView (some t) number) 0 = 1 ∧ u16 (pendingView (some t) number) 1 = t.toNat ∧
      u16 (pendingView (some t) number) 3 = (t.toNat + 65536 - number.toNat) % 65536 := by
  rw [← takeDistance_eq]
  have hd : takeDistance t number < 65536 := by rw [takeDistance_eq]; omega
  exact ⟨rfl, u16_put16 t.isLt, u16_put16 hd⟩

theorem stagingData_eq (s : State) :
    stagingData s =
      put8 (stagedCode s.tables.stagedState) ++ auditView s.audit.result ++ progressView s.audit.progress ++
        pendingView s.tables.pendingTake s.timing.number ++ put8 (policyCode (policyInEffect s)) ++
        [maskByte (maskInEffect s)] := by
  unfold stagingData
  cases s.tables.pendingTake <;> rfl

section
variable (s : State)

theorem stagingData_state : u8 (stagingData s) 0 = stagedCode s.tables.stagedState := by
  have hd := stagingData_eq s
  simp only [List.append_assoc] at hd
  have hcode : ∀ x, stagedCode x < 256 := fun x => by cases x <;> decide
  rw [hd]
  exact toNat_ofNat_byte (hcode _)

theorem stagingData_audit :
    (∀ j, j < 8 → u8 (stagingData s) (1 + j) = u8 (auditView s.audit.result) j) ∧
    ∀ j, j < 7 → u16 (stagingData s) (1 + j) = u16 (auditView s.audit.result) j := by
  have hd := stagingData_eq s
  simp only [List.append_assoc] at hd
  have hl := auditView_length s.audit.result
  exact ⟨fun j hj => u8_part hd rfl (by omega), fun j hj => u16_part hd rfl (by omega)⟩

theorem stagingData_progress {j : Nat} (hj : j < 2) :
    byteAt (stagingData s) (9 + j) = byteAt (progressView s.audit.progress) j := by
  have hd := stagingData_eq s
  rw [List.append_assoc, List.append_assoc, List.append_assoc] at hd
  exact byteAt_part hd (by rw [List.length_append, auditView_length]; rfl) (by rwa [progressView_length])

theorem stagingData_pending :
    u8 (stagingData s) 11 = u8 (pendingView s.tables.pendingTake s.timing.number) 0 ∧
    u16 (stagingData s) 12 = u16 (pendingView s.tables.pendingTake s.timing.number) 1 ∧
    u16 (stagingData s) 14 = u16 (pendingView s.tables.pendingTake s.timing.number) 3 := by
  have hd := stagingData_eq s
  rw [List.append_assoc, List.append_assoc] at hd
  have ho : (put8 (stagedCode s.tables.stagedState) ++ auditView s.audit.result ++ progressView s.audit.progress).length = 11 := by
    rw [List.length_append, List.length_append, auditView_length, progressView_length]
    rfl
  have hl := pendingView_length s.tables.pendingTake s.timing.number
  exact ⟨u8_part hd ho (j := 0) (by omega), u16_part hd ho (j := 1) (by omega), u16_part hd ho (j := 3) (by omega)⟩

theorem stagingData_settings :
    u8 (stagingData s) 16 = policyCode (policyInEffect s) ∧ byteAt (stagingData s) 17 = maskByte (maskInEffect s) := by
  have hd := stagingData_eq s
  rw [List.append_assoc] at hd
  have ho : (put8 (stagedCode s.tables.stagedState) ++ auditView s.audit.result ++ progressView s.audit.progress ++
      pendingView s.tables.pendingTake s.timing.number).length = 16 := by
    simp only [List.length_append, auditView_length, progressView_length, pendingView_length]
    rfl
  have hpolicy : policyCode (policyInEffect s) < 256 := by cases policyInEffect s <;> decide
  refine ⟨(u8_part hd ho (j := 0) (by exact Nat.one_pos)).trans (u8_put8 hpolicy), ?_⟩
  have hd' : stagingData s = (put8 (stagedCode s.tables.stagedState) ++ auditView s.audit.result ++
      progressView s.audit.progress ++ pendingView s.tables.pendingTake s.timing.number) ++
      ((put8 (policyCode (policyInEffect s)) ++ [maskByte (maskInEffect s)]) ++ []) := by
    rw [hd, List.append_nil]
  exact byteAt_part hd' ho (j := 1) (by exact Nat.one_lt_two)

end

/-- The outcome of a completed or aborted audit that reports no object: one byte, and seven zero bytes (R29, R189). -/
theorem auditView_plain {r : AuditResult} {code : Nat}
    (h : (r, code) ∈ [(AuditResult.none, 0), (.passed, 1), (.edited, 3), (.copied, 4), (.taken, 5), (.reset, 6)]) :
    u8 (auditView r) 0 = code ∧ ∀ j, 1 ≤ j → j < 8 → u8 (auditView r) j = 0 := by
  have plain : ∀ b : Byte, ∀ j, 1 ≤ j → j < 8 → u8 ([b] ++ zeros 7) j = 0 := fun b j h1 _ => by
    rw [show j = [b].length + (j - 1) by simp only [List.length_singleton]; omega, u8_append, u8, byteAt_zeros]
    rfl
  simp only [List.mem_cons, List.not_mem_nil, or_false, Prod.mk.injEq] at h
  obtain ⟨rfl, rfl⟩ | ⟨rfl, rfl⟩ | ⟨rfl, rfl⟩ | ⟨rfl, rfl⟩ | ⟨rfl, rfl⟩ | ⟨rfl, rfl⟩ := h
  all_goals exact ⟨rfl, plain _⟩

/-- The object a failed check reports (R29, R189): kind, page, id and detail. -/
theorem auditView_failed {check : Nat} (hc : check < 256) (failure : AuditFailure) :
    let v := auditView (.failed check failure)
    let object (kind page id detail : Nat) : Prop := u8 v 2 = kind ∧ u8 v 3 = page ∧ u16 v 4 = id ∧ u16 v 6 = detail
    u8 v 0 = 2 ∧ u8 v 1 = check ∧ (failure = .nothing → object 0 0 0 0) ∧
      (∀ page id detail, page < 8 → id < 48 → detail < 2048 → failure = .tile page id detail → object 1 page id detail) ∧
      (∀ id detail, id < 512 → detail < 512 → failure = .item id detail → object 2 0 id detail) ∧
      (∀ id, id < 256 → failure = .photo id → object 3 0 id 0) ∧
      (∀ page detail, page < 8 → detail < 2048 → failure = .page page detail → object 4 page 0 detail) := by
  have hhead : u8 (auditView (.failed check failure)) 0 = 2 ∧ u8 (auditView (.failed check failure)) 1 = check := by
    cases failure <;> exact ⟨rfl, toNat_ofNat_byte hc⟩
  have word : ∀ n, n < 65536 → (BitVec.ofNat 8 (n / 256)).toNat * 256 + (BitVec.ofNat 8 n).toNat = n := fun _ => u16_put16
  refine ⟨hhead.1, hhead.2, ?_, ?_, ?_, ?_, ?_⟩
  · rintro rfl
    exact ⟨rfl, rfl, u16_eq_zero rfl rfl, u16_eq_zero rfl rfl⟩
  · rintro page id detail hp hi hd rfl
    exact ⟨rfl, toNat_ofNat_byte (n := page) (by omega), word id (by omega), word detail (by omega)⟩
  · rintro id detail hi hd rfl
    exact ⟨rfl, rfl, word id (by omega), word detail (by omega)⟩
  · rintro id hi rfl
    exact ⟨rfl, rfl, word id (by omega), u16_eq_zero rfl rfl⟩
  · rintro page detail hp hd rfl
    exact ⟨rfl, toNat_ofNat_byte (n := page) (by omega), u16_eq_zero rfl rfl, word detail (by omega)⟩

/-- Settles O28: the data of both queries read part by part. -/
theorem queryNodeAndStagingReportTheState : Obligations.QueryNodeAndStagingReportTheState := by
  intro s f h a b c hT hf ht hq
  have hnode : exec (.queryNode h [0, a, b, c]) s = _ := exec_query rfl rfl hT rfl (.node rfl)
  have hstaging : exec (.queryStaging h [4, a, b, c]) s = _ := exec_query rfl rfl hT rfl (.staging rfl)
  refine ⟨⟨_, hnode, ?node⟩, ⟨_, hstaging, ?staging⟩⟩
  case node =>
    have hempty : s.intake = [] := hT.2.2.1
    have hreads := nodeData_reads (s := s.begin) ht hq
    rw [show s.begin.intake.length = 0 by rw [State.begin, hempty]; rfl] at hreads
    exact hreads
  case staging =>
    obtain ⟨haudit, haudit'⟩ := stagingData_audit s.begin
    obtain ⟨hp0, hp1, hp2⟩ := stagingData_pending s.begin
    obtain ⟨hpolicy, hmask⟩ := stagingData_settings s.begin
    have hprogress0 := stagingData_progress s.begin (j := 0) (by omega)
    have hprogress1 := stagingData_progress s.begin (j := 1) (by omega)
    have hsettings : frameSettings s.begin = f.snap.settings := frameSettings_eq hf
    rw [policyInEffect, hsettings] at hpolicy
    rw [maskInEffect, hsettings] at hmask
    refine ⟨stagingData_state s.begin, fun target htarget => ?pending, fun hnone => ?noTake, hpolicy, fun j c hjc => ?mask,
      fun m next running hprogress => ⟨fun hnext => ?next, fun j c hjc => ?enabled⟩, fun hnone => ?noAudit,
      fun result code hmem hresult => ?outcome, fun check failure hresult hcheck => ?failed⟩
    case pending =>
      change u8 (stagingData s.begin) 11 = 1 ∧ u16 (stagingData s.begin) 12 = _ ∧ u16 (stagingData s.begin) 14 = _
      rw [hp0, hp1, hp2, show s.begin.tables.pendingTake = some target from htarget]
      exact pendingView_some target s.timing.number
    case noTake =>
      change u8 (stagingData s.begin) 11 = 0 ∧ u16 (stagingData s.begin) 12 = _ ∧ u16 (stagingData s.begin) 14 = _
      rw [hp0, hp1, hp2, show s.begin.tables.pendingTake = none from hnone]
      exact ⟨rfl, u16_eq_zero rfl rfl, u16_eq_zero rfl rfl⟩
    case mask =>
      change (byteAt (stagingData s.begin) 17).getLsbD j = c
      rw [hmask]
      exact maskByte_getLsbD _ hjc
    case next =>
      change (byteAt (stagingData s.begin) 9).toNat = _
      rw [hprogress0, show s.begin.audit.progress = _ from hprogress]
      exact toNat_ofNat_byte hnext
    case enabled =>
      change (byteAt (stagingData s.begin) 10).getLsbD j = c
      rw [hprogress1, show s.begin.audit.progress = _ from hprogress]
      exact maskByte_getLsbD m hjc
    case noAudit =>
      change (byteAt (stagingData s.begin) 9).toNat = 0 ∧ (byteAt (stagingData s.begin) 10).toNat = 0
      rw [hprogress0, hprogress1, show s.begin.audit.progress = _ from hnone]
      exact ⟨rfl, rfl⟩
    case outcome =>
      obtain ⟨hcode, hzero⟩ := auditView_plain hmem
      rw [show s.begin.audit.result = result from hresult] at haudit
      refine ⟨(haudit 0 (by omega)).trans hcode, fun j h2 h8 => ?_⟩
      obtain ⟨k, rfl⟩ := Nat.exists_eq_add_of_le (show 1 ≤ j by omega)
      exact (haudit k (by omega)).trans (hzero k (by omega) (by omega))
    case failed =>
      rw [show s.begin.audit.result = _ from hresult] at haudit haudit'
      have h0 : u8 (stagingData s.begin) 1 = _ := haudit 0 (by omega)
      have h1 : u8 (stagingData s.begin) 2 = _ := haudit 1 (by omega)
      have h2 : u8 (stagingData s.begin) 3 = _ := haudit 2 (by omega)
      have h3 : u8 (stagingData s.begin) 4 = _ := haudit 3 (by omega)
      have h4 : u16 (stagingData s.begin) 5 = _ := haudit' 4 (by omega)
      have h6 : u16 (stagingData s.begin) 7 = _ := haudit' 6 (by omega)
      have hfailed := auditView_failed hcheck failure
      simp only [← h0, ← h1, ← h2, ← h3, ← h4, ← h6] at hfailed
      exact hfailed

end Sys2Proof.Machine
end

section
/-! What QUERY ITEM, QUERY TILE, QUERY PHOTO, QUERY SCHEDULE and QUERY GLYPH report, field by field (section 11.8). -/

namespace Sys2Proof.Machine

theorem u32_put32 {n : Nat} (h : n < 4294967296) : u16 (put32 n) 0 * 65536 + u16 (put32 n) 2 = n := by
  obtain ⟨a, b, hab, hn⟩ := put16_bytes (n := n / 65536) (by omega)
  obtain ⟨c, d, hcd, hm⟩ := put16_bytes (n := n % 65536) (by omega)
  have hab' : [BitVec.ofNat 8 (n / 16777216), BitVec.ofNat 8 (n / 65536)] = [a, b] := by
    rw [← hab, put16, Nat.div_div_eq_div_mul]
  have hcd' : [BitVec.ofNat 8 (n / 256), BitVec.ofNat 8 n] = [c, d] := by
    rw [← hcd, put16]
    refine congrArg₂ (fun x y => [x, y]) ?_ ?_ <;> apply BitVec.eq_of_toNat_eq <;> simp only [BitVec.toNat_ofNat] <;> omega
  have hbytes : put32 n = [a, b] ++ [c, d] := by
    rw [← hab', ← hcd']
    rfl
  rw [hbytes]
  have hhigh : u16 ([a, b] ++ [c, d]) 0 = a.toNat * 256 + b.toNat := rfl
  have hlow : u16 ([a, b] ++ [c, d]) 2 = c.toNat * 256 + d.toNat := rfl
  rw [hhigh, hlow, hn, hm]
  exact Nat.div_add_mod' n 65536

/-- A record that is present is sent behind a presence byte of 01; one that is absent as zero bytes. -/
theorem presentOr_reads {d pre post : List Byte} {o size : Nat} {record : Option (List Byte)}
    (hd : d = pre ++ (presentOr size record ++ post)) (ho : pre.length = o) (hl : ∀ r, record = some r → r.length = size) :
    (record = none → ∀ j, o ≤ j → j ≤ o + size → byteAt d j = 0) ∧
    ∀ r, record = some r → u8 d o = 1 ∧ (d.drop (o + 1)).take size = r := by
  constructor
  · rintro rfl j h1 h2
    exact byteAt_part_zeros (n := 1 + size) hd ho h1 (by omega)
  · rintro r rfl
    refine ⟨u8_part (j := 0) hd ho (by rw [presentOr]; simp [putFlag]), ?_⟩
    have hd' : d = (pre ++ [1]) ++ (r ++ post) := by
      rw [hd, presentOr, List.append_assoc, List.append_assoc]
      rfl
    rw [hd', List.drop_left' (by simpa using ho), List.take_left' (hl r rfl)]

/-! ### QUERY ITEM -/

/-- What the frame says of an item's price, five bytes (R86, R188). -/
def cacheView : Option PriceEntry → List Byte
  | some (.priced value _) => put32 value ++ putFlag false
  | some (.overflow value) => put32 value ++ putFlag true
  | _ => zeros 5

theorem itemView_none {snap : Snapshot} {id : Nat} (h : tget snap.status id = none) : itemView snap id = zeros 8 := by
  rw [itemView, h]

theorem itemView_some {snap : Snapshot} {id : Nat} {status : ItemStatus} (h : tget snap.status id = some status) :
    itemView snap id =
      putFlag true ++ putFlag status.offered ++ putFlag status.available ++ cacheView (tget snap.cache id) := by
  rw [itemView, h]
  obtain _ | _ | _ | _ := tget snap.cache id <;> rfl

/-- The fields of the frame's view of an item (R64, R86). -/
theorem itemView_reads {snap : Snapshot} {id : Nat} {status : ItemStatus} (h : tget snap.status id = some status) :
    let v := itemView snap id
    u8 v 0 = 1 ∧ u8 v 1 = (if status.offered then 1 else 0) ∧ u8 v 2 = (if status.available then 1 else 0) ∧
      (∀ value glyphs, value < 4294967296 → tget snap.cache id = some (.priced value glyphs) →
        u16 v 3 * 65536 + u16 v 5 = value ∧ u8 v 7 = 0) ∧
      (∀ value, value < 4294967296 → tget snap.cache id = some (.overflow value) →
        u16 v 3 * 65536 + u16 v 5 = value ∧ u8 v 7 = 1) ∧
      (tget snap.cache id = none ∨ tget snap.cache id = some .notOffered → ∀ j, 3 ≤ j → j ≤ 7 → byteAt v j = 0) := by
  rw [itemView_some h]
  refine ⟨rfl, u8_putFlag _, u8_putFlag _, ?_, ?_, ?_⟩
  · intro value glyphs hv hcache
    rw [hcache]
    exact ⟨u32_put32 hv, rfl⟩
  · intro value hv hcache
    rw [hcache]
    exact ⟨u32_put32 hv, rfl⟩
  · intro hcache j h1 h2
    have hzero : cacheView (tget snap.cache id) = zeros 5 := by
      obtain hcache | hcache := hcache <;> rw [hcache] <;> rfl
    have hd : putFlag true ++ putFlag status.offered ++ putFlag status.available ++ zeros 5 =
        (putFlag true ++ putFlag status.offered ++ putFlag status.available) ++ (zeros 5 ++ []) := by rw [List.append_nil]
    rw [hzero]
    exact byteAt_part_zeros (o := 3) hd rfl h1 (by omega)

theorem itemData_eq {s : State} {f : Frame} (hf : s.frame = some f) (id : Nat) :
    itemData s id =
      presentOr 37 ((tget s.tables.live.items id).map (encodeItem id)) ++
        (presentOr 37 ((tget s.tables.staged.items id).map (encodeItem id)) ++
          (put8 (stockCode (stockOf s.tables.stock id)) ++ itemView f.snap id)) := by
  rw [itemData, hf, List.append_assoc, List.append_assoc]

section
variable {s : State} {f : Frame} {id : Nat}

theorem itemRecords_length (hr : RecordsInRange s) (id : Nat) :
    (presentOr 37 ((tget s.tables.live.items id).map (encodeItem id))).length = 38 ∧
    (presentOr 37 ((tget s.tables.staged.items id).map (encodeItem id))).length = 38 := by
  obtain ⟨⟨hlive, -⟩, ⟨hstaged, -⟩, -⟩ := hr
  exact ⟨presentOr_length fun _ => encodeItem_length_of_mem hlive id,
    presentOr_length fun _ => encodeItem_length_of_mem hstaged id⟩

theorem itemData_stock (hf : s.frame = some f) (hr : RecordsInRange s) {entry : Stock}
    (h : s.tables.stock[id]? = some entry) : u8 (itemData s id) 76 = if entry = .available then 0 else 1 := by
  obtain ⟨hlive, hstaged⟩ := itemRecords_length hr id
  have hd := itemData_eq hf id
  rw [← List.append_assoc] at hd
  have hstock : stockOf s.tables.stock id = entry := by rw [stockOf, List.getD_eq_getElem?_getD, h]; rfl
  have hpart : u8 (itemData s id) 76 = u8 (put8 (stockCode (stockOf s.tables.stock id))) 0 :=
    u8_part hd (by rw [List.length_append, hlive, hstaged]) Nat.one_pos
  rw [hpart, hstock]
  cases entry <;> rfl

/-- QUERY ITEM's view of the item stands at offset 77. -/
theorem itemData_view (hf : s.frame = some f) (hr : RecordsInRange s) {j : Nat} (hj : j < 8) :
    byteAt (itemData s id) (77 + j) = byteAt (itemView f.snap id) j := by
  obtain ⟨hlive, hstaged⟩ := itemRecords_length hr id
  have hd := itemData_eq hf id
  rw [← List.append_assoc, ← List.append_assoc, ← List.append_nil (itemView f.snap id)] at hd
  refine byteAt_part hd ?_ (by rwa [itemView_length])
  rw [List.length_append, List.length_append, hlive, hstaged]
  rfl

end

/-! ### QUERY TILE -/

/-- The completed frame of QUERY TILE: presence, number and page, four bytes (R139). -/
def keptView : Option KeptFlags → List Byte
  | none => zeros 4
  | some k => putFlag true ++ put16 k.number.toNat ++ put8 k.page

theorem keptView_length (o : Option KeptFlags) : (keptView o).length = 4 := by cases o <;> rfl

theorem keptView_some (k : KeptFlags) (hk : k.page < 8) :
    u8 (keptView (some k)) 0 = 1 ∧ u16 (keptView (some k)) 1 = k.number.toNat ∧ u8 (keptView (some k)) 3 = k.page :=
  ⟨rfl, u16_put16 k.number.isLt, toNat_ofNat_byte (by omega)⟩

theorem tileData_eq (s : State) (page id : Nat) :
    tileData s page id =
      presentOr 39 ((tget s.tables.live.tiles (tileKey page id)).map (encodeTile page id)) ++
        (presentOr 39 ((tget s.tables.staged.tiles (tileKey page id)).map (encodeTile page id)) ++
          (keptView s.kept ++ ([tileFlagBits (keptFlagsFor s page id)] ++ []))) := by
  rw [tileData, List.append_assoc, List.append_assoc, List.append_nil]
  cases s.kept <;> rfl

section
variable (s : State) (page id : Nat)

theorem tileRecords_length :
    (presentOr 39 ((tget s.tables.live.tiles (tileKey page id)).map (encodeTile page id)) ++
      presentOr 39 ((tget s.tables.staged.tiles (tileKey page id)).map (encodeTile page id))).length = 80 := by
  rw [List.length_append, presentOr_length fun _ => encodeTile_length_of_map,
    presentOr_length fun _ => encodeTile_length_of_map]

theorem tileData_kept :
    (∀ j, j < 4 → byteAt (tileData s page id) (80 + j) = byteAt (keptView s.kept) j) ∧
    u16 (tileData s page id) 81 = u16 (keptView s.kept) 1 ∧
    byteAt (tileData s page id) 84 = tileFlagBits (keptFlagsFor s page id) := by
  have hl := tileRecords_length s page id
  have hk := keptView_length s.kept
  have hd := tileData_eq s page id
  rw [← List.append_assoc] at hd
  have hd' := hd
  rw [← List.append_assoc] at hd'
  exact ⟨fun j hj => byteAt_part hd hl (by omega), u16_part (j := 1) hd hl (by omega),
    byteAt_part (j := 0) hd' (by rw [List.length_append, hl, hk]) Nat.one_pos⟩

end

theorem tileFlagBits_getLsbD (f : TileFlags) :
    (tileFlagBits f).getLsbD 4 = f.missingRef ∧ (tileFlagBits f).getLsbD 3 = f.notReady ∧
    (tileFlagBits f).getLsbD 2 = f.overflow ∧ (tileFlagBits f).getLsbD 1 = f.missingGlyph ∧
    (tileFlagBits f).getLsbD 0 = f.budgetShort := by
  obtain ⟨h0, h1, h2, h3, h4⟩ := bits_getLsbD f.budgetShort f.missingGlyph f.overflow f.notReady f.missingRef
  exact ⟨h4, h3, h2, h1, h0⟩

/-- A tile that is in no completed frame's list has clear flags (R139). -/
theorem keptFlagsFor_clear {s : State} {page id : Nat}
    (h : s.kept = none ∨ ∃ k, s.kept = some k ∧ (k.page ≠ page ∨ tget k.flags id = none)) :
    keptFlagsFor s page id = noTileFlags := by
  obtain h | ⟨k, hk, h | h⟩ := h
  · rw [keptFlagsFor, h]
  · rw [keptFlagsFor, hk]
    exact if_neg h
  · rw [keptFlagsFor, hk]
    simp only [h, Option.getD_none, ite_self]

theorem keptFlagsFor_some {s : State} {k : KeptFlags} {page id : Nat} {flags : TileFlags} (hk : s.kept = some k)
    (hp : k.page = page) (h : tget k.flags id = some flags) : keptFlagsFor s page id = flags := by
  rw [keptFlagsFor, hk]
  simp only [hp, h, if_true, Option.getD_some]

theorem tileFlagBits_clear {j : Nat} (hj : j < 5) : (tileFlagBits noTileFlags).getLsbD j = false := by
  obtain rfl | rfl | rfl | rfl | rfl : j = 0 ∨ j = 1 ∨ j = 2 ∨ j = 3 ∨ j = 4 := by omega
  all_goals rfl

/-- Settles O29: the data of both queries read part by part. -/
theorem queryItemAndTileReportTheirRecords : Obligations.QueryItemAndTileReportTheirRecords := by
  intro s f h p hT hf hr hl
  refine ⟨fun h0 hi => ?item, fun h0 hp hi => ?tile⟩
  case item =>
    have hexec : exec (.queryItem h p) s = _ := exec_query rfl rfl hT hl (.item h0 hi)
    obtain ⟨⟨hlive, -⟩, ⟨hstaged, -⟩, -⟩ := id hr
    have hd := itemData_eq (s := s.begin) hf (u16 p 1)
    have hview : ∀ j, j < 8 → byteAt (itemData s.begin (u16 p 1)) (77 + j) = byteAt (itemView f.snap (u16 p 1)) j :=
      fun _ => itemData_view (s := s.begin) hf hr
    refine ⟨_, hexec, presentOr_reads (pre := []) hd rfl fun _ => encodeItem_length_of_mem hlive _,
      presentOr_reads hd (itemRecords_length hr _).1 fun _ => encodeItem_length_of_mem hstaged _,
      fun entry hentry => itemData_stock (s := s.begin) hf hr hentry, fun hnone j h1 h2 => ?missing, fun status hstatus => ?some⟩
    case missing =>
      obtain ⟨k, rfl⟩ := Nat.exists_eq_add_of_le h1
      rw [itemView_none hnone] at hview
      exact (hview k (by omega)).trans (byteAt_zeros 8 k)
    case some =>
      obtain ⟨hpresent, hoffered, havailable, hpriced, hover, hzero⟩ := itemView_reads hstatus
      have hview8 : ∀ j, j < 8 → u8 (itemData s.begin (u16 p 1)) (77 + j) = u8 (itemView f.snap (u16 p 1)) j :=
        fun j hj => congrArg BitVec.toNat (hview j hj)
      have hhigh : u16 (itemData s.begin (u16 p 1)) 80 = u16 (itemView f.snap (u16 p 1)) 3 :=
        congrArg₂ (fun a b => a * 256 + b) (hview8 3 (by omega)) (hview8 4 (by omega))
      have hlow : u16 (itemData s.begin (u16 p 1)) 82 = u16 (itemView f.snap (u16 p 1)) 5 :=
        congrArg₂ (fun a b => a * 256 + b) (hview8 5 (by omega)) (hview8 6 (by omega))
      have hvalue := congrArg₂ (fun a b => a * 65536 + b) hhigh hlow
      refine ⟨(hview8 0 (by omega)).trans hpresent, (hview8 1 (by omega)).trans hoffered,
        (hview8 2 (by omega)).trans havailable, fun value glyphs hv hcache => ?_, fun value hv hcache => ?_,
        fun hcache j h1 h2 => ?_⟩
      · obtain ⟨hval, hflag⟩ := hpriced value glyphs hv hcache
        exact ⟨hvalue.trans hval, (hview8 7 (by omega)).trans hflag⟩
      · obtain ⟨hval, hflag⟩ := hover value hv hcache
        exact ⟨hvalue.trans hval, (hview8 7 (by omega)).trans hflag⟩
      · obtain ⟨k, rfl⟩ := Nat.exists_eq_add_of_le h1
        rw [show 80 + k = 77 + (3 + k) by omega]
        exact (hview (3 + k) (by omega)).trans (hzero hcache (3 + k) (by omega) (by omega))
  case tile =>
    have hexec : exec (.queryTile h p) s = _ := exec_query rfl rfl hT hl (.tile h0 hp hi)
    have hd := tileData_eq s.begin (u16 p 1) (u8 p 3)
    obtain ⟨hkept, hnumber, hflags⟩ := tileData_kept s.begin (u16 p 1) (u8 p 3)
    refine ⟨_, hexec, presentOr_reads (pre := []) hd rfl fun _ => encodeTile_length_of_map,
      presentOr_reads hd (presentOr_length fun _ => encodeTile_length_of_map) fun _ => encodeTile_length_of_map,
      fun hnone j h1 h2 => ?noFrame, fun k hk hpage => ?frame, fun hclear j hj => ?clear, fun k flags hk hpage hget => ?flags⟩
    case noFrame =>
      obtain ⟨k, rfl⟩ := Nat.exists_eq_add_of_le h1
      rw [show s.begin.kept = none from hnone] at hkept
      exact (hkept k (by omega)).trans (byteAt_zeros 4 k)
    case frame =>
      obtain ⟨hv0, hv1, hv3⟩ := keptView_some k hpage
      rw [show s.begin.kept = some k from hk] at hkept hnumber
      exact ⟨(congrArg BitVec.toNat (hkept 0 (by omega))).trans hv0, hnumber.trans hv1,
        (congrArg BitVec.toNat (hkept 3 (by omega))).trans hv3⟩
    case clear =>
      change (byteAt (tileData s.begin (u16 p 1) (u8 p 3)) 84).getLsbD j = false
      rw [hflags, keptFlagsFor_clear (s := s.begin) hclear]
      exact tileFlagBits_clear hj
    case flags =>
      have hbits := tileFlagBits_getLsbD (keptFlagsFor s.begin (u16 p 1) (u8 p 3))
      rw [keptFlagsFor_some (s := s.begin) hk hpage hget] at hbits hflags
      rw [← hflags] at hbits
      exact hbits

end Sys2Proof.Machine
end

section
/-! What QUERY PHOTO, QUERY SCHEDULE and QUERY GLYPH report, field by field (section 11.8). -/

namespace Sys2Proof.Machine

theorem toNat_word {n : Nat} (h : n < 65536) : (BitVec.ofNat 8 (n / 256)).toNat * 256 + (BitVec.ofNat 8 n).toNat = n := u16_put16 h

/-! ### QUERY PHOTO -/

/-- The four bytes of a photo's key colour: presence and colour (R93, R111). -/
def keyBytes : Option Color → List Byte
  | none => zeros 4
  | some c => putFlag true ++ putColor c

theorem keyBytes_length (o : Option Color) : (keyBytes o).length = 4 := by cases o <;> rfl

theorem photoView_some (r : PhotoRec) :
    photoView (some r) =
      [BitVec.ofNat 8 (photoStateCode r.state), BitVec.ofNat 8 (r.w / 256), BitVec.ofNat 8 r.w, BitVec.ofNat 8 (r.h / 256),
        BitVec.ofNat 8 r.h] ++
      (keyBytes r.key ++ [BitVec.ofNat 8 (r.rowsFilled / 256), BitVec.ofNat 8 r.rowsFilled,
        BitVec.ofNat 8 (stripResultCode r.last), BitVec.ofNat 8 r.skipped]) := by
  obtain ⟨state, w, h, key, blocks, filled, last, skipped⟩ := r
  cases key <;> rfl

/-- The fields of a photo's record. -/
theorem photoView_reads (r : PhotoRec) (post : List Byte) :
    let d := photoView (some r) ++ post
    u8 d 0 = (if r.state = .opened then 1 else 2) ∧ (r.w ≤ 512 → u16 d 1 = r.w) ∧ (r.h ≤ 512 → u16 d 3 = r.h) ∧
      (r.key = none → ∀ j, 5 ≤ j → j ≤ 8 → byteAt d j = 0) ∧ (∀ c, r.key = some c → u8 d 5 = 1 ∧ colorAt d 6 = c) ∧
      (r.rowsFilled ≤ 512 → u16 d 9 = r.rowsFilled) ∧
      (∀ result code,
        (result, code) ∈ [(StripResult.none, 0), (.done, 1), (.overrun, 2), (.lost, 3), (.outOfCanvas, 4), (.flushed, 5)] →
        r.last = result → u8 d 11 = code) ∧
      (r.skipped ≤ 4 → u8 d 12 = r.skipped) := by
  have hstate : photoStateCode r.state = if r.state = .opened then 1 else 2 := by cases r.state <;> rfl
  have hlast : ∀ result code,
      (result, code) ∈ [(StripResult.none, 0), (.done, 1), (.overrun, 2), (.lost, 3), (.outOfCanvas, 4), (.flushed, 5)] →
      r.last = result → stripResultCode r.last = code ∧ code < 256 := by
    rintro result code hmem rfl
    simp only [List.mem_cons, List.not_mem_nil, or_false, Prod.mk.injEq] at hmem
    obtain ⟨h, rfl⟩ | ⟨h, rfl⟩ | ⟨h, rfl⟩ | ⟨h, rfl⟩ | ⟨h, rfl⟩ | ⟨h, rfl⟩ := hmem <;> rw [h] <;> decide
  rw [photoView_some]
  obtain ⟨k, k₀, k₁, k₂, hkey⟩ : ∃ k k₀ k₁ k₂, keyBytes r.key = [k, k₀, k₁, k₂] := by
    cases r.key <;> exact ⟨_, _, _, _, rfl⟩
  rw [hkey]
  refine ⟨?state, fun h => toNat_word (n := r.w) (by omega), fun h => toNat_word (n := r.h) (by omega), ?noKey, ?key,
    fun h => toNat_word (n := r.rowsFilled) (by omega), ?last, fun h => toNat_ofNat_byte (n := r.skipped) (by omega)⟩
  case state =>
    refine (toNat_ofNat_byte ?_).trans hstate
    cases r.state <;> decide
  case noKey =>
    intro hnone j h1 h2
    rw [hnone] at hkey
    cases hkey
    obtain rfl | rfl | rfl | rfl : j = 5 ∨ j = 6 ∨ j = 7 ∨ j = 8 := by omega
    all_goals rfl
  case key =>
    intro c hc
    rw [hc] at hkey
    cases hkey
    exact ⟨rfl, rfl⟩
  case last =>
    intro result code hmem h
    obtain ⟨hcode, hlt⟩ := hlast result code hmem h
    exact (toNat_ofNat_byte (by rwa [hcode])).trans hcode

/-- The counts that follow a photo's record (R111). -/
theorem photoData_counts (s : State) (id : Nat) :
    (referenceCount s id < 65536 → u16 (photoData s id) 13 = referenceCount s id) ∧
    (s.photos.free.length ≤ 6144 → u16 (photoData s id) 15 = s.photos.free.length) := by
  have hl := photoView_length (tget s.photos.directory id)
  have hd : photoData s id =
      photoView (tget s.photos.directory id) ++ (put16 (referenceCount s id) ++ put16 s.photos.free.length) := by
    rw [photoData, List.append_assoc]
  have hd' : photoData s id =
      (photoView (tget s.photos.directory id) ++ put16 (referenceCount s id)) ++ (put16 s.photos.free.length ++ []) := by
    rw [photoData, List.append_nil]
  refine ⟨fun h => ?_, fun h => ?_⟩
  · exact (u16_part (j := 0) hd hl Nat.one_lt_two).trans (u16_put16 h)
  · exact (u16_part (j := 0) hd' (by rw [List.length_append, hl]; rfl) Nat.one_lt_two).trans (u16_put16 (by omega))

/-! ### QUERY SCHEDULE -/

/-- The active entry of QUERY SCHEDULE: presence, index and entry, seven bytes (R64). -/
def activeBytes : Option (Nat × SchedEntry) → List Byte
  | none => zeros 7
  | some (i, e) => putFlag true ++ put8 i ++ put16 e.start ++ put8 e.page ++ put8 e.column ++ [e.target]

theorem scheduleView_eq (snap : Snapshot) :
    scheduleView snap =
      (put16 snap.minute ++ putFlag snap.timeValid) ++
      (activeBytes snap.active ++ (put8 snap.page ++ put8 snap.column ++ [snap.schedTarget])) := by
  unfold scheduleView activeBytes
  obtain _ | ⟨i, e⟩ := snap.active
  · rfl
  · simp only [List.append_assoc]

/-- The fields of the snapshot in QUERY SCHEDULE. -/
theorem scheduleView_reads (snap : Snapshot) (post : List Byte) :
    let d := scheduleView snap ++ post
    (snap.minute ≤ 1439 → u16 d 0 = snap.minute) ∧ u8 d 2 = (if snap.timeValid then 1 else 0) ∧
      (snap.active = none → ∀ j, 3 ≤ j → j ≤ 9 → byteAt d j = 0) ∧
      (∀ i e, snap.active = some (i, e) → i ≤ 15 → e.start ≤ 1439 → e.page ≤ 7 → e.column ≤ 3 →
        u8 d 3 = 1 ∧ u8 d 4 = i ∧ u16 d 5 = e.start ∧ u8 d 7 = e.page ∧ u8 d 8 = e.column ∧ byteAt d 9 = e.target) ∧
      (snap.page ≤ 7 → u8 d 10 = snap.page) ∧ (snap.column ≤ 3 → u8 d 11 = snap.column) ∧
      byteAt d 12 = snap.schedTarget := by
  rw [scheduleView_eq]
  obtain ⟨a₀, a₁, a₂, a₃, a₄, a₅, a₆, hactive⟩ :
      ∃ a₀ a₁ a₂ a₃ a₄ a₅ a₆, activeBytes snap.active = [a₀, a₁, a₂, a₃, a₄, a₅, a₆] := by
    obtain _ | ⟨i, e⟩ := snap.active <;> exact ⟨_, _, _, _, _, _, _, rfl⟩
  rw [hactive]
  refine ⟨fun h => toNat_word (n := snap.minute) (by omega), u8_putFlag snap.timeValid, ?noEntry, ?entry,
    fun h => toNat_ofNat_byte (n := snap.page) (by omega), fun h => toNat_ofNat_byte (n := snap.column) (by omega), rfl⟩
  case noEntry =>
    intro hnone j h1 h2
    rw [hnone] at hactive
    cases hactive
    obtain rfl | rfl | rfl | rfl | rfl | rfl | rfl : j = 3 ∨ j = 4 ∨ j = 5 ∨ j = 6 ∨ j = 7 ∨ j = 8 ∨ j = 9 := by omega
    all_goals rfl
  case entry =>
    intro i e he hi hstart hpage hcolumn
    rw [he] at hactive
    cases hactive
    exact ⟨rfl, toNat_ofNat_byte (n := i) (by omega), toNat_word (n := e.start) (by omega),
      toNat_ofNat_byte (n := e.page) (by omega), toNat_ofNat_byte (n := e.column) (by omega), rfl⟩

/-- The override as now held, in QUERY SCHEDULE (R64). -/
theorem scheduleData_override {s : State} {f : Frame} (hf : s.frame = some f) {j : Nat} (hj : j < 3) :
    byteAt (scheduleData s) (13 + j) = byteAt (overrideView s.context.override) j := by
  have hd : scheduleData s = scheduleView f.snap ++ (overrideView s.context.override ++ []) := by
    rw [scheduleData, hf, List.append_nil]
  exact byteAt_part hd (scheduleView_length _) (by rwa [overrideView_length])

/-! ### QUERY GLYPH -/

/-- A slot's three bytes stand in its place behind the use count (R111). -/
theorem glyphData_slot {s : State} {font slot : Nat} {glyph : GlyphSlot} (hslot : slot ≤ 11)
    (h : s.glyphs.slots[font * 12 + slot]? = some glyph) {j : Nat} (hj : j < 3) :
    byteAt (glyphData s font) (1 + 3 * slot + j) = byteAt (slotView glyph) j := by
  have hof : slotOf s.glyphs.slots font slot = glyph := by
    rw [slotOf, slotIndex, List.getD_eq_getElem?_getD, h]
    rfl
  have hn : (List.range 12)[slot]? = some slot := List.getElem?_range (by omega)
  have hflat := byteAt_flatMap (f := fun slot => slotView (slotOf s.glyphs.slots font slot)) (fun _ => slotView_length _) hn [] hj
  rw [List.append_nil] at hflat
  rw [glyphData, Nat.add_assoc]
  exact (byteAt_append [_] _ _).trans (hflat.trans (by rw [hof]))

/-- Settles O30: the data of the three queries read part by part. -/
theorem queryPhotoScheduleAndGlyphReportTheState : Obligations.QueryPhotoScheduleAndGlyphReportTheState := by
  intro s f h p hT hf hl
  refine ⟨fun h0 hi => ?photo, fun h0 => ?schedule, fun h0 hi => ?glyph⟩
  case photo =>
    have hexec : exec (.queryPhoto h p) s = _ := exec_query rfl rfl hT hl (.photo h0 hi)
    obtain ⟨hrefs, hfree⟩ := photoData_counts s.begin (u16 p 1)
    refine ⟨_, hexec, fun hnone j h1 h2 => ?_, fun r hget => ?_, hrefs, hfree⟩
    · have hd : photoData s.begin (u16 p 1) = [] ++ (zeros 13 ++
          (put16 (referenceCount s.begin (u16 p 1)) ++ put16 s.begin.photos.free.length)) := by
        rw [photoData, show tget s.begin.photos.directory (u16 p 1) = none from hnone, List.append_assoc]
        rfl
      exact byteAt_part_zeros hd rfl h1 (by omega)
    · have hd : photoData s.begin (u16 p 1) = photoView (some r) ++
          (put16 (referenceCount s.begin (u16 p 1)) ++ put16 s.begin.photos.free.length) := by
        rw [photoData, show tget s.begin.photos.directory (u16 p 1) = some r from hget, List.append_assoc]
      have hreads := photoView_reads r (put16 (referenceCount s.begin (u16 p 1)) ++ put16 s.begin.photos.free.length)
      rw [← hd] at hreads
      exact hreads
  case schedule =>
    have hexec : exec (.querySchedule h p) s = _ := exec_query rfl rfl hT hl (.schedule h0)
    have hd : scheduleData s.begin = scheduleView f.snap ++ overrideView s.begin.context.override := by
      rw [scheduleData, show s.begin.frame = some f from hf]
    obtain ⟨hminute, hvalid, hnone, hentry, hpage, hcolumn, htarget⟩ :=
      hd ▸ scheduleView_reads f.snap (overrideView s.begin.context.override)
    have hover : ∀ j, j < 3 → byteAt (scheduleData s.begin) (13 + j) = byteAt (overrideView s.context.override) j :=
      fun _ => scheduleData_override (s := s.begin) hf
    refine ⟨_, hexec, hminute, hvalid, hnone, hentry, hpage, hcolumn, htarget, fun ho => ?_, fun o ho hopage hocolumn => ?_⟩
    · rw [ho] at hover
      refine ⟨congrArg BitVec.toNat (hover 0 (by omega)), fun j h1 h2 => ?_⟩
      obtain rfl | rfl : j = 14 ∨ j = 15 := by omega
      · exact hover 1 (by omega)
      · exact hover 2 (by omega)
    · rw [ho] at hover
      refine ⟨(congrArg BitVec.toNat (hover 0 (by omega))).trans ?_, (congrArg BitVec.toNat (hover 1 (by omega))).trans ?_,
        (congrArg BitVec.toNat (hover 2 (by omega))).trans ?_⟩
      · cases hm : o.mode <;> simp [overrideView, hm, overrideModeCode, put8, byteAt]
      · exact toNat_ofNat_byte (n := o.page) (by omega)
      · exact toNat_ofNat_byte (n := o.column) (by omega)
  case glyph =>
    have hexec : exec (.queryGlyph h p) s = _ := exec_query rfl rfl hT hl (.glyph h0 hi)
    refine ⟨_, hexec, fun hu => ?_, fun slot glyph hslot hget => ?_⟩
    · change (useCountByte (columnGet s.glyphs.useCounts (u16 p 1))).toNat = _
      rw [useCountByte, if_pos hu]
      exact toNat_ofNat_byte (by omega)
    · have hslot3 : ∀ j, j < 3 → byteAt (glyphData s.begin (u16 p 1)) (1 + 3 * slot + j) = byteAt (slotView glyph) j :=
        fun _ => glyphData_slot (s := s.begin) hslot hget
      have hbyte : ∀ j k, k < 3 → j = 1 + 3 * slot + k → byteAt (glyphData s.begin (u16 p 1)) j = byteAt (slotView glyph) k :=
        fun j k hk hj => hj ▸ hslot3 k hk
      refine ⟨?_, ?_, ?_⟩
      · rintro rfl j h1 h2
        exact (hbyte j (j - (1 + 3 * slot)) (by omega) (by omega)).trans (byteAt_zeros 3 _)
      · rintro lines rfl
        refine ⟨congrArg BitVec.toNat (hbyte _ 0 (by omega) rfl), fun j h1 h2 => ?_⟩
        obtain rfl | rfl : j = 2 + 3 * slot ∨ j = 3 + 3 * slot := by omega
        · exact hbyte _ 1 (by omega) (by omega)
        · exact hbyte _ 2 (by omega) (by omega)
      · rintro width height bitmap rfl hw hh
        exact ⟨congrArg BitVec.toNat (hbyte _ 0 (by omega) rfl),
          (congrArg BitVec.toNat (hbyte _ 1 (by omega) (by omega))).trans (toNat_ofNat_byte (n := width) (by omega)),
          (congrArg BitVec.toNat (hbyte _ 2 (by omega) (by omega))).trans (toNat_ofNat_byte (n := height) (by omega))⟩

end Sys2Proof.Machine
end

section
/-! The return lane: transfers upstream and the grant of the slot they free (R178–R180), and the records received from downstream
(R179, R182). -/

namespace Sys2Proof.Machine

variable {s : State} {k : Packet} {rest : List Packet}

/-- Where a packet waits that is not stalled on, the Command Processor takes it and comes to rest behind it (R172, R174). -/
theorem process_taken (hf : s.frame.isSome = true) (hq : s.intake = k :: rest)
    (hs : answered s k = true → s.lane.queue.length < 8) :
    Drains (closing s k (carryOut k.code k.payload { s with intake := rest })) s.process := by
  generalize ht : s.process = t
  have h : Drains s t := ht ▸ process_drains s
  cases h with
  | idle _ h =>
    obtain h | h := h
    · rw [h] at hf; cases hf
    · rw [h] at hq; cases hq
  | stalled _ k' rest' hq' ha hl =>
    obtain ⟨rfl, rfl⟩ := List.cons.inj (hq.symm.trans hq')
    exact absurd (hs ha) (not_lt.2 hl)
  | taken _ _ k' rest' _ hq' _ h =>
    obtain ⟨rfl, rfl⟩ := List.cons.inj (hq.symm.trans hq')
    exact h

theorem eq_address_iff (b : Byte) (a : BitVec 3) : decide (b = a.setWidth 8) = (b.toNat == a.toNat) := by
  have ha := a.isLt
  rw [Bool.eq_iff_iff, decide_eq_true_iff, beq_iff_eq, ← BitVec.toNat_inj, BitVec.toNat_setWidth,
    Nat.mod_eq_of_lt (by omega)]

theorem acceptForwarded_none (h : s.lane.buffer = none) : acceptForwarded s = s := by rw [acceptForwarded, h]

/-- The record of the receive buffer is accepted at the tail; its own address as source sets CONFLICT (R179, R182). -/
theorem acceptForwarded_some {r : ReplyRecord} (h : s.lane.buffer = some r) :
    acceptForwarded s =
      { s with
        lane :=
          { s.lane with
            queue := s.lane.queue ++ [r], buffer := none
            conflict := s.lane.conflict || r.source.toNat == s.lane.address.toNat }
        out := { s.out with laneDown := true } } := by
  rw [acceptForwarded, h, ← eq_address_iff]

theorem processorWaits_idle (h : s.intake = [] ∨ s.frame = none) : processorWaits s = false := by
  unfold processorWaits
  obtain h | h := h
  · rw [h]; cases s.frame <;> rfl
  · rw [h]

theorem processorWaits_some (hf : s.frame.isSome = true) (hq : s.intake = k :: rest) : processorWaits s = answered s k := by
  obtain ⟨f, hf⟩ := Option.isSome_iff_exists.1 hf
  rw [processorWaits, hf, hq]

/-! ### The grant of a freed slot (R180) -/

theorem grantSlot_nobody (hb : s.lane.buffer = none) (hw : processorWaits s = false) : grantSlot s = s := by
  rw [grantSlot, hb, hw]
  rfl

theorem grantSlot_forwardAlone {r : ReplyRecord} (hb : s.lane.buffer = some r) (hw : processorWaits s = false) :
    grantSlot s = acceptForwarded s := by
  rw [grantSlot, hb, hw]
  rfl

theorem grantSlot_ownAlone (hb : s.lane.buffer = none) (hw : processorWaits s = true) : grantSlot s = s.process := by
  rw [grantSlot, hb, hw]
  rfl

theorem grantSlot_forward {r : ReplyRecord} (hb : s.lane.buffer = some r) (hw : processorWaits s = true)
    (hg : s.lane.grant = .forward) : grantSlot s = acceptForwarded { s with lane := { s.lane with grant := .own } } := by
  rw [grantSlot, hb, hw, hg]
  rfl

theorem grantSlot_own {r : ReplyRecord} (hb : s.lane.buffer = some r) (hw : processorWaits s = true)
    (hg : s.lane.grant = .own) : grantSlot s = State.process { s with lane := { s.lane with grant := .forward } } := by
  rw [grantSlot, hb, hw, hg]
  rfl

/-- The state with the record in transfer gone from the queue and a grant memory, before its slot is taken. -/
def transferred (s : State) (pins : Pins) (r : ReplyRecord) (rest : List ReplyRecord) (grant : GrantMemory) : State :=
  { s with
    pins := pins, out := { noOutputs with laneUp := some r }
    lane := { s.lane with queue := rest, sending := false, grant := grant } }

theorem exec_upstreamTransferDone {pins : Pins} {r : ReplyRecord} {records : List ReplyRecord}
    (hs : s.lane.sending = true) (hq : s.lane.queue = r :: records) :
    exec (.upstreamTransferDone pins) s = .next (grantSlot (transferred s pins r records s.lane.grant)) := by
  change execUpstreamTransferDone pins s = _
  have hq' : (s.begin.latch pins).lane.queue = r :: records := hq
  rw [execUpstreamTransferDone, hs, if_pos rfl, finishTransfer, hq']
  rfl

/-- Settles O32. -/
theorem transfersBeginEndAndFreeTheirSlot : Obligations.TransfersBeginEndAndFreeTheirSlot := by
  refine ⟨fun s hold => ⟨?start, rfl⟩, fun s pins r records hs hq hlen => ⟨fun hb hi => ?nobody, fun b hb hi => ?forwardAlone,
    fun k behind hf hk ha => ⟨fun hb => ?ownAlone, fun b hb hg => ?forward, fun b hb hg => ?own⟩⟩⟩
  case start =>
    change execUpstreamTransferStart hold s = _
    unfold execUpstreamTransferStart
    cases hsend : s.lane.sending <;> cases hempty : s.lane.queue.isEmpty <;> cases hold <;>
      simp [State.hold, State.begin, hsend]
  case nobody =>
    exact (exec_upstreamTransferDone hs hq).trans
      (congrArg _ (grantSlot_nobody (s := transferred s pins r records s.lane.grant) hb (processorWaits_idle hi)))
  case forwardAlone =>
    have haccept : acceptForwarded (transferred s pins r records s.lane.grant) = _ := acceptForwarded_some hb
    exact (exec_upstreamTransferDone hs hq).trans
      (congrArg _ ((grantSlot_forwardAlone (s := transferred s pins r records s.lane.grant) hb (processorWaits_idle hi)).trans haccept))
  all_goals
    have hw : processorWaits (transferred s pins r records s.lane.grant) = true := (processorWaits_some hf hk).trans ha
  case ownAlone =>
    exact ⟨_, (exec_upstreamTransferDone hs hq).trans (congrArg _ (grantSlot_ownAlone (s := transferred s pins r records s.lane.grant) hb hw)),
      process_taken (s := transferred s pins r records s.lane.grant) hf hk fun _ => hlen⟩
  case forward =>
    have haccept : acceptForwarded (transferred s pins r records .own) = _ := acceptForwarded_some hb
    exact (exec_upstreamTransferDone hs hq).trans (congrArg _ ((grantSlot_forward (s := transferred s pins r records s.lane.grant) hb hw hg).trans haccept))
  case own =>
    exact ⟨_, (exec_upstreamTransferDone hs hq).trans (congrArg _ (grantSlot_own (s := transferred s pins r records s.lane.grant) hb hw hg)),
      process_taken (s := transferred s pins r records .forward) hf hk fun _ => hlen⟩

/-! ### Records from downstream -/

theorem receiveRecord_some {bytes : List Byte} {r : ReplyRecord} (h : parseRecord bytes = some r) :
    receiveRecord s bytes =
      if s.lane.queue.length < 8 then
        { s with
          lane :=
            { s.lane with
              queue := s.lane.queue ++ [r], buffer := none
              conflict := s.lane.conflict || r.source.toNat == s.lane.address.toNat }
          out := { s.out with laneDown := true } }
      else { s with lane := { s.lane with buffer := some r } } := by
  rw [receiveRecord, h]
  simp only
  by_cases hq : s.lane.queue.length < 8
  · rw [if_pos hq, (replyFull_false_iff s).2 hq, if_neg (by decide), acceptForwarded_some rfl]
  · rw [if_neg hq, (replyFull_iff s).2 (not_lt.1 hq), if_pos rfl]

/-- Settles O33. -/
theorem forwardedRecordsAreAcceptedHeldOrDiscarded : Obligations.ForwardedRecordsAreAcceptedHeldOrDiscarded := by
  refine fun s bytes => ⟨fun hh => ?held, fun hr hb => ⟨?cut, fun hp => ?lost, fun r hp => ?received⟩⟩
  case held =>
    have hholds : holdsDownstream s = true := by
      rw [holdsDownstream, Bool.or_eq_true]
      exact hh
    refine ⟨?_, ?_⟩
    · change execDownstreamRecordReceived bytes s = _
      rw [execDownstreamRecordReceived, hholds]
      rfl
    · change execDownstreamRecordCutShort s = _
      rw [execDownstreamRecordCutShort, hholds]
      rfl
  all_goals have hfree : holdsDownstream s = false := by rw [holdsDownstream, hr, hb]; rfl
  case cut =>
    change execDownstreamRecordCutShort s = _
    rw [execDownstreamRecordCutShort, hfree]
    rfl
  case lost =>
    change execDownstreamRecordReceived bytes s = _
    rw [execDownstreamRecordReceived, hfree, receiveRecord, hp]
    rfl
  case received =>
    change execDownstreamRecordReceived bytes s = _
    rw [execDownstreamRecordReceived, hfree, receiveRecord_some hp, ← hb]
    rfl

end Sys2Proof.Machine
end

section
/-! The line compositor's laws: what composing a line leaves in the frame in progress and at the ports, and the local line timer
that composes the next line over the fill colour (R113, R115, R129, R130, R144). -/

namespace Sys2Proof.Machine

variable {s : State} {f : Frame}

theorem markShort_eq_tilesAfter (granted : List (TileEntry × Bool)) : markShort granted = tilesAfter granted := by
  unfold markShort tilesAfter
  refine List.map_congr_left fun g _ => ?_
  obtain ⟨e, degraded⟩ := g
  cases degraded <;> simp

/-- The panel port carries a symbol only while the panel is PRESENT (R160, R162). -/
theorem drive_out (s : State) (x : PanelSymbol) :
    (s.drive x).out = { s.out with panel := s.out.panel ++ if s.output.panel = .present then [x] else [] } := by
  unfold State.drive
  cases s.output.panel <;> simp

/-- A composed line leaves its grants' flags in the frame tile list, and the next line to compose. -/
theorem composeLine_progress (h : s.frame = some f) (n : Nat) (base : Nat → Color) :
    (composeLine s n base).frame = some { f with tiles := tilesAfter (lineGrants s f n).1, nextLine := n + 1 } := by
  simp only [composeLine, h, State.drive_frame, markShort_eq_tilesAfter]

/-- A composed line goes to the Output Stage, and through the frame's gamma tables to the panel port. -/
theorem composeLine_out (h : s.frame = some f) (n : Nat) (base : Nat → Color) :
    (composeLine s n base).out =
      { s.out with
        composed := s.out.composed ++ [⟨n, linePixels s f.snap (lineGrants s f n).1 base n⟩]
        panel := s.out.panel ++
          if s.output.panel = .present then
            [.line n ((linePixels s f.snap (lineGrants s f n).1 base n).map (gammaPixel f.snap.gamma))]
          else [] } := by
  simp only [composeLine, h, drive_out]

theorem composeFillLine_of_lt (h : s.frame = some f) (hn : f.nextLine < f.snap.settings.vh) :
    composeFillLine s = composeLine s f.nextLine fun _ => f.snap.settings.fill := by
  simp only [composeFillLine, h, hn, if_true]

theorem composeFillLine_of_le (h : s.frame = some f) (hn : f.snap.settings.vh ≤ f.nextLine) : composeFillLine s = s := by
  simp only [composeFillLine, h, not_lt.2 hn, if_false]

/-- What a line draws depends only on the photos and the glyphs. -/
theorem linePixel_congr {s t : State} (hp : s.photos = t.photos) (hg : s.glyphs = t.glyphs) : linePixel s = linePixel t := by
  have hc : contentPixel s = contentPixel t := by funext snap e n x; simp only [contentPixel, hp, hg]
  have hd : drawTile s = drawTile t := by funext snap n x d g; simp only [drawTile, hc]
  funext snap granted base n x
  simp only [linePixel, hd]

theorem lineGrants_congr {s t : State} (hp : s.photos.directory = t.photos.directory) : lineGrants s = lineGrants t := by
  funext f n
  simp only [lineGrants, hp]

theorem linePixels_length (s : State) (snap : Snapshot) (granted : List (TileEntry × Bool)) (base : Nat → Color) (n : Nat) :
    (linePixels s snap granted base n).length = snap.settings.vw := by
  rw [linePixels, List.length_map, List.length_range]

/-- A frame without tiles and highlights shows its base. -/
theorem linePixel_bare (s : State) {f : Frame} (ht : f.tiles = []) (h0 : f.snap.high0 = none) (h1 : f.snap.high1 = none)
    (base : Nat → Color) (m n x : Nat) : linePixel s f.snap (lineGrants s f m).1 base n x = base x := by
  simp only [linePixel, lineGrants, ht, grantTiles, List.foldl_nil, h0, h1, drawRing]

theorem linePixels_bare (s : State) {f : Frame} (ht : f.tiles = []) (h0 : f.snap.high0 = none) (h1 : f.snap.high1 = none)
    (c : Color) (m n : Nat) :
    linePixels s f.snap (lineGrants s f m).1 (fun _ => c) n = List.replicate f.snap.settings.vw c := by
  calc (List.range f.snap.settings.vw).map (linePixel s f.snap (lineGrants s f m).1 (fun _ => c) n)
      = (List.range f.snap.settings.vw).map fun _ => c := List.map_congr_left fun x _ => linePixel_bare s ht h0 h1 _ m n x
    _ = List.replicate f.snap.settings.vw c := by rw [List.map_const', List.length_range]

theorem exec_localLineTimer (s : State) :
    exec .localLineTimer s = .next (if lineIsLocal s then composeFillLine s.begin else s.begin) := rfl

theorem lineIsLocal_iff (s : State) : lineIsLocal s = true ↔ s.frame.isSome = true ∧ inputRunning s = false := by
  rw [lineIsLocal, Bool.and_eq_true, Bool.not_eq_true']

/-- Settles O51: the row composes the next line over fill exactly where it is local and one is left. -/
theorem localLinesComposeTheNextLineOverFill : Obligations.LocalLinesComposeTheNextLineOverFill := by
  unfold Obligations.LocalLinesComposeTheNextLineOverFill
  intro s
  rw [exec_localLineTimer]
  refine ⟨fun h => ?_, fun f hf hi => ?_⟩
  · have hno : lineIsLocal s = false := by
      obtain h | h := h <;> simp only [lineIsLocal, h, Option.isSome_none, Bool.false_and, Bool.not_true, Bool.and_false]
    rw [hno]; rfl
  · have hlocal : lineIsLocal s = true := (lineIsLocal_iff s).2 ⟨by rw [hf]; rfl, hi⟩
    have hf' : s.begin.frame = some f := hf
    rw [if_pos hlocal]
    refine ⟨fun hn => by rw [composeFillLine_of_le hf' hn], fun hn => ?_⟩
    rw [composeFillLine_of_lt hf' hn]
    have hout := composeLine_out hf' f.nextLine fun _ => f.snap.settings.fill
    refine ⟨_, _, _, rfl, composeLine_progress hf' _ _, rfl, rfl, rfl, congrArg Outputs.composed hout,
      linePixels_length .., rfl, by simp, by simp, by simp, fun hp => ?_, fun hp => ?_, fun ht h0 h1 => ?_⟩
    · have hp' : s.begin.output.panel = .absent := hp
      rw [hout, hp']; rfl
    · have hp' : s.begin.output.panel = .present := hp
      rw [hout, hp']; rfl
    · exact linePixels_bare s.begin ht h0 h1 _ _ _

end Sys2Proof.Machine
end

section
/-! The lines after the header line: which of them Packet Intake reads (R167, R169, R194), and the output line an ACTIVE line
composes (R113, R114, R122, R129). -/

namespace Sys2Proof.Machine

variable {s : State} {pins : Pins} {line : List Byte}

/-! ### Which lines are read -/

/-- A line of a node that is not held in reset is repeated, then read by its position. -/
theorem exec_packetLine (hr : s.resetn = false) :
    exec (.packetLine line pins) s =
      .next (readLine { s with pins := pins, out := { noOutputs with through := [.line line] } } line) := by
  have hr' : (s.begin.latch pins).resetn = false := hr
  simp only [exec, execPacketLine, lineArrives, hr', Bool.false_eq_true, if_false]
  rfl

theorem readLine_outside (h : s.receiver.position = .outside) : readLine s line = s := by simp only [readLine, h]

theorem readLine_packet {bs : List Byte} (h : s.receiver.position = .lines 0) :
    readLine s (0x02 :: bs) = packetBytes s bs := by
  simp only [readLine, h, laterLine, kindPacket, if_true]

/-- A PACKET line after an ACTIVE line is not read (R169). -/
theorem readLine_latePacket {n : Nat} (h : s.receiver.position = .lines (n + 1)) (hk : line.head? = some 0x02) :
    readLine s line = s := by
  cases line with
  | nil => cases hk
  | cons kind bs =>
    obtain rfl : kind = 0x02 := Option.some.inj hk
    simp only [readLine, h, laterLine, kindPacket, if_true, Nat.succ_ne_zero, if_false]

/-- A line of another kind is not read (R167, R194). -/
theorem readLine_otherKind {n : Nat} (h : s.receiver.position = .lines n) (h2 : line.head? ≠ some 0x02)
    (h1 : line.head? ≠ some 0x01) : readLine s line = s := by
  cases line with
  | nil => simp only [readLine, h, laterLine]
  | cons kind bs =>
    have hp : kind ≠ kindPacket := fun hk => h2 (congrArg some hk)
    have ha : kind ≠ kindActive := fun hk => h1 (congrArg some hk)
    simp only [readLine, h, laterLine, hp, ha, if_false]

/-- A packet whose CRC bytes are not the CRC of its body does not check (R169). -/
theorem parsePacket_wrongCrc (k : Packet) (padding : List Byte) {crc : Nat} (hl : k.payload.length ≤ 240)
    (hc : crc < 65536) (hne : crc ≠ (crc16 (packetBody k)).toNat) :
    parsePacket (packetBody k ++ put16 crc ++ padding) = none := by
  obtain ⟨c, d, hcd, hcrc⟩ := put16_bytes hc
  obtain ⟨n, hn, hlen⟩ := put8_bytes (n := k.payload.length) (by omega)
  obtain rfl : BitVec.ofNat 8 k.payload.length = n := List.singleton_inj.1 hn
  have hbytes : packetBody k ++ put16 crc ++ padding = packetBody k ++ (c :: d :: padding) := by
    rw [hcd, List.append_assoc]
    rfl
  have hbody : (packetBody k).length = 4 + k.payload.length := by
    simp only [packetBody, List.length_append, List.length_cons, List.length_nil]
  have hat3 : u8 (packetBody k ++ (c :: d :: padding)) 3 = k.payload.length := hlen
  have hread : u16 (packetBody k ++ (c :: d :: padding)) (4 + k.payload.length) = crc := by
    rw [← hbody]
    exact (u16_append _ _ 0).trans hcrc
  have hlong : (packetBody k ++ (c :: d :: padding)).length = 6 + k.payload.length + padding.length := by
    rw [List.length_append, hbody, List.length_cons, List.length_cons]
    omega
  rw [hbytes, parsePacket, hat3, hread, hlong, if_neg (by omega), ← hbody, List.take_left, if_pos hne.symm]

/-- Settles O41, by the position of the line in the input frame and its kind byte. -/
theorem packetLinesReachIntakeBeforeActiveLines : Obligations.PacketLinesReachIntakeBeforeActiveLines := by
  unfold Obligations.PacketLinesReachIntakeBeforeActiveLines
  intro s k padding pins crc hr hl repeated
  have hexec : ∀ line, exec (.packetLine line pins) s = .next (readLine (repeated line) line) := fun line =>
    exec_packetLine hr
  refine ⟨fun hp => ?_, fun hp hc hne => ?_, fun n line hp hk => ?_, fun n line hp h2 h1 => ?_, fun hp line => ?_⟩
  · rw [hexec, readLine_packet (s := repeated _) hp, packetBytes, parsePacket_encodePacket k padding hl]
  · rw [hexec, readLine_packet (s := repeated _) hp, packetBytes, parsePacket_wrongCrc k padding hl hc hne]
  · rw [hexec, readLine_latePacket (s := repeated _) hp hk]
  · rw [hexec, readLine_otherKind (s := repeated _) hp h2 h1]
  · rw [hexec, readLine_outside (s := repeated _) hp]

/-! ### ACTIVE lines -/

/-- A pixel of a line is its three bytes; one of fewer bytes is none (assumption 10). -/
theorem pixelsOf_getElem? (bytes : List Byte) (i : Nat) :
    (pixelsOf bytes)[i]? = if 3 * i + 2 < bytes.length then some (colorAt bytes (3 * i)) else none := by
  induction bytes using pixelsOf.induct generalizing i with
  | case1 r g b rest ih =>
    rw [pixelsOf]
    cases i with
    | zero => simp [colorAt, byteAt]
    | succ i =>
      have hat : colorAt (r :: g :: b :: rest) (3 * (i + 1)) = colorAt rest (3 * i) := by
        simp [colorAt, byteAt, Nat.mul_add, List.getD]
      rw [List.getElem?_cons_succ, ih i, hat]
      simp only [List.length_cons]
      split <;> split <;> first | rfl | omega
  | case2 l h =>
    have hl : ¬ 3 * i + 2 < l.length := by
      match l, h with
      | [], _ => simp
      | [_], _ => simp
      | [_, _], _ => simp
      | r :: g :: b :: rest, h => exact absurd rfl (h r g b rest)
    rw [if_neg hl, pixelsOf]
    · rfl
    · exact h

/-- The pixel of a canvas column that a line gives: within the canvas, and with all of its bytes. -/
theorem canvasPixels_getElem? (bytes : List Byte) (width i : Nat) :
    ((pixelsOf bytes).take width)[i]? =
      if i < width ∧ 3 * i + 2 < bytes.length then some (colorAt bytes (3 * i)) else none := by
  rw [List.getElem?_take, pixelsOf_getElem?]
  split <;> simp [*]

/-- The base of an output line: the canvas pixel of its column, or the fill colour where the line gives none (R114, R167). -/
theorem canvasBase_eq (settings : NodeSettings) (bytes : List Byte) (width x : Nat) :
    canvasBase settings ((pixelsOf bytes).take width) x =
      if settings.vx + x < width ∧ 3 * (settings.vx + x) + 2 < bytes.length then
        colorAt bytes (3 * (settings.vx + x))
      else settings.fill := by
  rw [canvasBase, List.getD_eq_getElem?_getD, canvasPixels_getElem?]
  split <;> rfl

/-- The state in which an ACTIVE line is repeated and counted. -/
def lineCounted (s : State) (a : Nat) (bytes : List Byte) : State :=
  { s with
    out := { noOutputs with through := [.line (0x01 :: bytes)] }
    receiver := ⟨.lines (a + 1), s.receiver.canvas⟩ }

/-- An ACTIVE line is repeated and counted, and gives its output line and its source line where input is arriving. -/
theorem exec_activeLine {a : Nat} {f : Frame} (bytes : List Byte) (hr : s.resetn = false)
    (hp : s.receiver.position = .lines a) (hf : s.frame = some f) :
    exec (.activeLine (0x01 :: bytes)) s =
      .next
        (if inputRunning s then feedLine (lineCounted s a bytes) f a ((pixelsOf bytes).take (canvasWidth s))
         else lineCounted s a bytes) := by
  have hr' : s.begin.resetn = false := hr
  have hp' : (s.begin.repeatThrough (.line (0x01 :: bytes))).receiver.position = .lines a := hp
  have hf' : (s.begin.repeatThrough (.line (0x01 :: bytes))).frame = some f := hf
  have hk : (0x01 : Byte) ≠ kindPacket := by decide
  simp only [exec, execActiveLine, lineArrives, hr', Bool.false_eq_true, if_false, readLine, hp', laterLine, hk,
    activeArrives, hf', kindActive, if_true]
  rw [← hf]
  rfl

theorem outputLine_some {settings : NodeSettings} {a : Nat} (h : settings.vy ≤ a ∧ a < settings.vy + settings.vh) :
    outputLine settings a = some (a - settings.vy) := by rw [outputLine, if_pos h]

theorem outputLine_none {settings : NodeSettings} {a : Nat} (h : ¬ (settings.vy ≤ a ∧ a < settings.vy + settings.vh)) :
    outputLine settings a = none := by rw [outputLine, if_neg h]

/-- A line that the viewport covers is composed, and then reaches the Capture Engine with what its tiles leave (R113, R131). -/
theorem feedLine_covered {f : Frame} {a : Nat} (l : List Color)
    (h : f.snap.settings.vy ≤ a ∧ a < f.snap.settings.vy + f.snap.settings.vh) :
    feedLine s f a l =
      captureLine (composeLine s (a - f.snap.settings.vy) (canvasBase f.snap.settings l)) a l
        (lineGrants s f (a - f.snap.settings.vy)).2 := by
  simp only [feedLine, outputLine_some h]

/-- A line outside the viewport only reaches the Capture Engine, with the whole budget. -/
theorem feedLine_outside {f : Frame} {a : Nat} (l : List Color)
    (h : ¬ (f.snap.settings.vy ≤ a ∧ a < f.snap.settings.vy + f.snap.settings.vh)) :
    feedLine s f a l = captureLine s a l 3072 := by
  simp only [feedLine, outputLine_none h]
  rfl

/-- Settles O42: the line is counted, and where input is arriving and the viewport covers it, composed over its pixels. -/
theorem activeLinesComposeTheirOutputLine : Obligations.ActiveLinesComposeTheirOutputLine := by
  unfold Obligations.ActiveLinesComposeTheirOutputLine
  intro s f a bytes hr hp hf
  refine ⟨_, exec_activeLine bytes hr hp hf, ?_, ?_, ?_, ?_, fun hi => ?_, fun hi => ?_⟩
  · split
    · rw [(feedLine_frame ..).2.2.1]; rfl
    · rfl
  · split
    · rw [(feedLine_frame ..).2.2.2.2.2.2.1]; rfl
    · rfl
  · split
    · rw [(feedLine_frame ..).2.2.2.2.1]; rfl
    · rfl
  · split
    · rw [(feedLine_frame ..).2.2.2.2.2.2.2.2.1]; rfl
    · rfl
  · rw [if_neg (by rw [hi]; exact Bool.false_ne_true)]
    exact ⟨rfl, rfl, rfl⟩
  · rw [if_pos hi]
    have hf' : (lineCounted s a bytes).frame = some f := hf
    refine ⟨fun ho => ?_, fun hlow hhigh => ?_⟩
    · rw [feedLine_outside _ ho]
      simp only [captureLine_frame]
      exact ⟨rfl, rfl⟩
    · rw [feedLine_covered _ ⟨hlow, hhigh⟩]
      simp only [captureLine_frame, composeLine_progress hf', composeLine_out hf']
      refine ⟨_, _, rfl, linePixels_length .., ?_, rfl, rfl, rfl, rfl, fun ht h0 h1 x hx => ?_⟩
      · refine List.map_congr_left fun x _ => ?_
        rw [funext (canvasBase_eq f.snap.settings bytes (canvasWidth s))]
        rfl
      · rw [linePixels, List.getElem?_map, List.getElem?_range hx, Option.map_some, linePixel_bare _ ht h0 h1,
          canvasBase_eq]

end Sys2Proof.Machine
end

section
/-! Where the pixels of photos lie (R87, R88) and what writes them: only a source line of a strip in flight (R103). -/

namespace Sys2Proof.Machine

/-! ### Pixel cells -/

/-- The block that holds a photo pixel; a block list that is too short names none. -/
def pixelBlock (r : PhotoRec) (px py : Nat) : Nat := r.blocks.getD (py / 32 * ((r.w + 31) / 32) + px / 32) 6144

/-- The number of a photo pixel among the pixels of picture memory, three bytes each. -/
def pixelCell (r : PhotoRec) (px py : Nat) : Nat := (pixelBlock r px py * 32 + py % 32) * 32 + px % 32

theorem photoAddress_eq (r : PhotoRec) (px py : Nat) : photoAddress r px py = pixelCell r px py * 3 := rfl

theorem photoPixel_eq (m : List Host.Cell) (r : PhotoRec) (px py : Nat) :
    photoPixel m r px py = readPixel m (pixelCell r px py * 3) := rfl

theorem pixelCell_div (r : PhotoRec) (px py : Nat) : pixelCell r px py / 1024 = pixelBlock r px py := by
  unfold pixelCell
  omega

/-- A block of the list, or none. -/
theorem pixelBlock_mem (r : PhotoRec) (px py : Nat) : pixelBlock r px py ∈ r.blocks ∨ pixelBlock r px py = 6144 := by
  unfold pixelBlock
  rw [List.getD_eq_getElem?_getD]
  cases h : r.blocks[py / 32 * ((r.w + 31) / 32) + px / 32]? with
  | none => exact .inr rfl
  | some b => exact .inl (List.mem_of_getElem? h)

/-- Beyond picture memory nothing is written. -/
theorem writePixel_outside (m : List Host.Cell) {i : Nat} (h : 6144 * 1024 ≤ i) (c : Color) : writePixel m (i * 3) c = m := by
  have hsize : Config.pictureBytes = 6144 * 1024 * 3 := rfl
  simp only [writePixel, memWrite, hsize]
  rw [if_neg (by omega), if_neg (by omega), if_neg (by omega)]

section
variable {r : PhotoRec} {py i : Nat}

/-- A written run leaves every pixel it does not name, and the pixels beyond picture memory. -/
theorem writePhotoRow_other (cs : List Color) (px : Nat) (m : List Host.Cell)
    (h : ∀ k, k < cs.length → pixelCell r (px + k) py ≠ i ∨ 6144 * 1024 ≤ pixelCell r (px + k) py) :
    readPixel (writePhotoRow r py px cs m) (i * 3) = readPixel m (i * 3) := by
  induction cs generalizing px m with
  | nil => rfl
  | cons c cs ih =>
    have hrest : ∀ k, k < cs.length → pixelCell r (px + 1 + k) py ≠ i ∨ 6144 * 1024 ≤ pixelCell r (px + 1 + k) py := by
      intro k hk
      have hk' := h (k + 1) (Nat.succ_lt_succ hk)
      rwa [show px + (k + 1) = px + 1 + k by omega] at hk'
    have hfirst := h 0 (Nat.succ_pos _)
    rw [Nat.add_zero] at hfirst
    rw [writePhotoRow, ih _ _ hrest, photoAddress_eq]
    obtain hne | hout := hfirst
    · exact readPixel_writePixel_ne _ _ _ _ hne
    · rw [writePixel_outside _ hout]

/-- A pixel of a written run reads as its colour. -/
theorem writePhotoRow_at (cs : List Color) (px : Nat) (m : List Host.Cell) {k : Nat} {c : Color} (hc : cs[k]? = some c)
    (hin : pixelCell r (px + k) py < 6144 * 1024)
    (hne : ∀ j, k < j → j < cs.length → pixelCell r (px + j) py ≠ pixelCell r (px + k) py) :
    readPixel (writePhotoRow r py px cs m) (pixelCell r (px + k) py * 3) = c := by
  induction cs generalizing px m k with
  | nil => cases hc
  | cons d cs ih =>
    cases k with
    | zero =>
      obtain rfl : d = c := Option.some.inj hc
      have hsize : Config.pictureBytes = 6144 * 1024 * 3 := rfl
      rw [writePhotoRow, writePhotoRow_other, photoAddress_eq, Nat.add_zero]
      · rw [Nat.add_zero] at hin
        exact readPixel_writePixel _ _ _ (by omega)
      · intro j hj
        rw [show px + 1 + j = px + (j + 1) by omega]
        exact .inl (hne (j + 1) (Nat.succ_pos j) (Nat.succ_lt_succ hj))
    | succ k =>
      have hshift : ∀ j, px + (j + 1) = px + 1 + j := fun j => by omega
      rw [hshift k] at hin
      rw [writePhotoRow, hshift k]
      refine ih (px + 1) (writePixel m (photoAddress r px py) d) hc hin fun j hkj hj => ?_
      have hlater := hne (j + 1) (Nat.succ_lt_succ hkj) (Nat.succ_lt_succ hj)
      rwa [hshift j, hshift k] at hlater

end

/-! ### Blocks of one photo and of two (R88) -/

section
variable {p : PhotoStore} {id other : Nat} {r r' : PhotoRec}

theorem BlocksPartitioned.nodup (h : BlocksPartitioned p) : (p.directory.flatMap fun e => e.2.blocks).Nodup :=
  (List.nodup_append.1 (h.2.nodup_iff.2 List.nodup_range)).2.1

theorem BlocksPartitioned.lt (h : BlocksPartitioned p) (hr : tget p.directory id = some r) {b : Nat} (hb : b ∈ r.blocks) :
    b < 6144 :=
  List.mem_range.1 (h.2.mem_iff.1 (List.mem_append_right _ (List.mem_flatMap.2 ⟨(id, r), mem_of_tget hr, hb⟩)))

theorem BlocksPartitioned.blocks_nodup (h : BlocksPartitioned p) (hr : tget p.directory id = some r) : r.blocks.Nodup :=
  (List.nodup_flatMap.1 h.nodup).1 (id, r) (mem_of_tget hr)

/-- Two photos share no block. -/
theorem BlocksPartitioned.disjoint (h : BlocksPartitioned p) (hr : tget p.directory id = some r)
    (hr' : tget p.directory other = some r') (hne : id ≠ other) : List.Disjoint r.blocks r'.blocks := by
  have hpair := (List.nodup_flatMap.1 h.nodup).2
  have : Std.Symm (Function.onFun List.Disjoint fun e : Nat × PhotoRec => e.2.blocks) := ⟨fun _ _ hd => hd.symm⟩
  exact List.Pairwise.forall hpair (mem_of_tget hr) (mem_of_tget hr') fun he => hne (congrArg Prod.fst he)

/-- No pixel of one photo lies in a cell of another's that is in picture memory. -/
theorem pixelCell_ne_of_other (h : BlocksPartitioned p) (hr : tget p.directory id = some r)
    (hr' : tget p.directory other = some r') (hne : id ≠ other) (px py qx qy : Nat) :
    pixelCell r' qx qy ≠ pixelCell r px py ∨ 6144 * 1024 ≤ pixelCell r' qx qy := by
  have hdiv := pixelCell_div r px py
  have hdiv' := pixelCell_div r' qx qy
  obtain hb' | hb' := pixelBlock_mem r' qx qy
  · refine .inl fun heq => ?_
    have hsame : pixelBlock r px py = pixelBlock r' qx qy := by rw [← hdiv, ← hdiv', heq]
    obtain hb | hb := pixelBlock_mem r px py
    · exact h.disjoint hr hr' hne hb (hsame ▸ hb')
    · have := h.lt hr' hb'
      omega
  · exact .inr (by omega)

end

/-! ### What leaves picture memory -/

variable (s : State)

@[simp] theorem failRequest_memory (q : CaptureRequest) (r : StripResult) :
    (failRequest s q r).photos.memory = s.photos.memory := by
  unfold failRequest
  (repeat' split) <;> rfl

@[simp] theorem failInFlight_memory (r : StripResult) : (failInFlight s r).photos.memory = s.photos.memory := by
  unfold failInFlight
  split
  · rfl
  · rw [failRequest_memory]

@[simp] theorem armCapture_memory : (armCapture s).photos.memory = s.photos.memory := by
  unfold armCapture
  (repeat' split) <;> simp

@[simp] theorem armIfGood_memory (c : FrameCause) : (armIfGood s c).photos.memory = s.photos.memory := by
  cases c <;> simp [armIfGood]

@[simp] theorem expireCounts_memory : (expireCounts s).photos.memory = s.photos.memory := by
  unfold expireCounts
  split <;> rfl

@[simp] theorem settleTake_memory (n : FrameNo) (c : Bool) : (settleTake s n c).photos.memory = s.photos.memory := by
  unfold settleTake
  (repeat' split) <;> rfl

@[simp] theorem settleFrame_memory (c : FrameCause) (b : Bool) : (settleFrame s c b).photos.memory = s.photos.memory := by
  simp [settleFrame]

@[simp] theorem frameStart_memory (c : FrameCause) (b : Bool) : (frameStart s c b).photos.memory = s.photos.memory := by
  simp [frameStart]

theorem goodHeader_memory (h : Header) : (goodHeader s h).photos.memory = s.photos.memory := by
  unfold goodHeader
  (repeat' split) <;> simp

theorem missFrame_memory (c : FrameCause) : (missFrame s c).photos.memory = s.photos.memory := by
  unfold missFrame
  (repeat' split) <;> simp

theorem badHeader_memory : (badHeader s).photos.memory = s.photos.memory := by
  unfold badHeader
  split
  · simp
  · simp
  · exact missFrame_memory ..

theorem headerEnd_memory (l : List Byte) : (headerEnd s l).photos.memory = s.photos.memory := by
  unfold headerEnd
  simp only
  split
  · rw [goodHeader_memory]
  · rw [badHeader_memory]

theorem packetBytes_memory (bs : List Byte) : (packetBytes s bs).photos.memory = s.photos.memory := by
  unfold packetBytes
  split
  · unfold packetArrives
    split
    · rw [process_memory]; simp
    · rfl
  · rfl

/-! ### What writes it -/

variable {s} {a left : Nat} {l : List Color}

theorem captureLine_idle (h : s.capture.inFlight = none) : captureLine s a l left = s := by simp only [captureLine, h]

theorem captureLine_strip {id x y row rows n : Nat} (h : s.capture.inFlight = some ⟨.strip id x y row rows, n⟩) :
    captureLine s a l left =
      if y ≤ a ∧ a < y + rows then stripLine s ⟨.strip id x y row rows, n⟩ id x y row rows a l left else s := by
  simp only [captureLine, h]

theorem captureLine_glyph {font slot x y w h n : Nat} (hf : s.capture.inFlight = some ⟨.glyph font slot x y w h, n⟩) :
    captureLine s a l left =
      if y ≤ a ∧ a < y + h then glyphLine s ⟨.glyph font slot x y w h, n⟩ font slot x y w h a l else s := by
  simp only [captureLine, hf]

/-- A cell line of a glyph writes no pixel. -/
theorem glyphLine_photos (f : InFlight) (font slot x y w h : Nat) (hq : f.request = .glyph font slot x y w h)
    (hf : s.capture.inFlight = some f) : (glyphLine s f font slot x y w h a l).photos = s.photos := by
  unfold glyphLine
  split
  · simp only
    split <;> simp
  · simp [failInFlight, hf, hq, failRequest]

/-- A strip's line writes nothing, or one run of pixels of its photo. -/
theorem stripLine_memory (f : InFlight) (id x y row rows : Nat) :
    (stripLine s f id x y row rows a l left).photos.memory = s.photos.memory ∨
      ∃ r, tget s.photos.directory id = some r ∧
        (stripLine s f id x y row rows a l left).photos.memory =
          writePhotoRow r (row + (a - y)) 0 ((l.drop x).take r.w) s.photos.memory := by
  unfold stripLine
  split
  · exact .inl rfl
  · next r hr =>
    split
    · refine .inr ⟨r, hr, ?_⟩
      simp only
      split <;> rfl
    · (repeat' split) <;> exact .inl (failInFlight_memory ..)

/-- An ACTIVE line writes nothing, or one run of pixels of the photo of the strip in flight. -/
theorem captureLine_memory (s : State) (a : Nat) (l : List Color) (left : Nat) :
    (captureLine s a l left).photos.memory = s.photos.memory ∨
      ∃ id x y row rows n r, s.capture.inFlight = some ⟨.strip id x y row rows, n⟩ ∧
        tget s.photos.directory id = some r ∧
        (captureLine s a l left).photos.memory =
          writePhotoRow r (row + (a - y)) 0 ((l.drop x).take r.w) s.photos.memory := by
  cases hf : s.capture.inFlight with
  | none => rw [captureLine_idle hf]; exact .inl rfl
  | some f =>
    obtain ⟨q, n⟩ := f
    cases q with
    | strip id x y row rows =>
      rw [captureLine_strip hf]
      split
      · refine (stripLine_memory ..).imp_right fun ⟨r, hr, hm⟩ => ⟨id, x, y, row, rows, n, r, rfl, hr, hm⟩
      · exact .inl rfl
    | glyph font slot x y w h =>
      rw [captureLine_glyph hf]
      split
      · rw [glyphLine_photos _ _ _ _ _ _ _ rfl hf]; exact .inl rfl
      · exact .inl rfl

/-- The part of a state that a source line of a strip is written by. -/
def SameCapture (s t : State) : Prop := t.capture = s.capture ∧ t.photos = s.photos

/-- The picture memory of t is that of s, but for at most one run of pixels of the photo of the strip in flight in s. -/
def StripWritten (s t : State) : Prop :=
  t.photos.memory = s.photos.memory ∨
    ∃ id x y row rows n r py cs, s.capture.inFlight = some ⟨.strip id x y row rows, n⟩ ∧
      tget s.photos.directory id = some r ∧ t.photos.memory = writePhotoRow r py 0 cs s.photos.memory

theorem captureLine_stripWritten {u : State} (h : SameCapture s u) : StripWritten s (captureLine u a l left) := by
  obtain ⟨hc, hp⟩ := h
  unfold StripWritten
  rw [← hc, ← hp]
  exact (captureLine_memory u a l left).imp_right fun ⟨id, x, y, row, rows, n, r, hf, hr, hm⟩ =>
    ⟨id, x, y, row, rows, n, r, _, _, hf, hr, hm⟩

theorem activeArrives_stripWritten {u : State} (h : SameCapture s u) (bs : List Byte) :
    StripWritten s (activeArrives u bs) := by
  unfold activeArrives
  split
  · next n _ =>
    simp only
    split
    · next f _ =>
      split
      · unfold feedLine
        split
        · exact captureLine_stripWritten (by simpa [SameCapture] using h)
        · exact captureLine_stripWritten h
      · exact .inl (congrArg PhotoStore.memory h.2)
    · exact .inl (congrArg PhotoStore.memory h.2)
  · exact .inl (congrArg PhotoStore.memory h.2)

/-- Of the rows that bring a line, an ACTIVE line of an input frame is the only one that writes pixels. -/
theorem lineArrives_stripWritten (s : State) (line : List Byte) : StripWritten s (lineArrives s line) := by
  unfold lineArrives readLine
  simp only
  split
  · exact .inl rfl
  · split
    · exact .inl rfl
    · exact .inl ((process_memory _).trans (headerEnd_memory ..))
    · unfold laterLine
      split
      · exact .inl rfl
      · split
        · split
          · exact .inl (packetBytes_memory ..)
          · exact .inl rfl
        · split
          · exact activeArrives_stripWritten ⟨rfl, rfl⟩ _
          · exact .inl rfl

/-- Settles O45: what a strip writes lies in its own photo's blocks, which no other photo has. -/
theorem stripLinesWriteOnlyTheirPhoto : Obligations.StripLinesWriteOnlyTheirPhoto := by
  unfold Obligations.StripLinesWriteOnlyTheirPhoto
  intro s t line hp he
  obtain rfl : lineArrives s.begin line = t := by cases he; rfl
  obtain hm | ⟨id', x', y', row', rows', n', r', py', cs, hf, hr', hm⟩ := lineArrives_stripWritten s.begin line
  · exact ⟨fun id r px py _ _ _ _ => by rw [hm]; rfl, fun _ => hm⟩
  · refine ⟨fun id r px py hr _ _ hother => ?_, fun hnone => absurd hf (hnone id' x' y' row' rows' n')⟩
    have hne : id ≠ id' := fun h => hother x' y' row' rows' n' (h ▸ hf)
    rw [photoPixel_eq, photoPixel_eq, hm]
    exact writePhotoRow_other cs 0 _ fun k _ => pixelCell_ne_of_other hp hr hr' hne ..

end Sys2Proof.Machine
end

section
/-! What an ACTIVE line does for the strip or the glyph in flight (R97, R103–R107, R131), and what a failed request leaves (R106). -/

namespace Sys2Proof.Machine

/-! ### Failed requests (R106) -/

/-- What the failure of a strip leaves: its photo's result and skipped count, and none of its photo's strips. -/
structure StripFailed (s t : State) (id : Nat) (result : StripResult) : Prop where
  capture : t.capture = ⟨s.capture.queue.filter fun q => !isStripOf id q, none⟩
  glyphs : t.glyphs = s.glyphs
  photos : t.photos = { s.photos with directory := t.photos.directory }
  raised : t.lane.events.captureFailed = true
  record : ∀ j,
    tget t.photos.directory j =
      if j = id then
        (tget s.photos.directory id).map fun r =>
          { r with last := result, skipped := (s.capture.queue.filter (isStripOf id)).length }
      else tget s.photos.directory j

/-- What the failure of a glyph load leaves: an EMPTY slot. -/
structure GlyphFailed (s t : State) (font slot : Nat) : Prop where
  capture : t.capture = ⟨s.capture.queue, none⟩
  glyphs : t.glyphs = { s.glyphs with slots := s.glyphs.slots.set (font * 12 + slot) .empty }
  photos : t.photos = s.photos
  raised : t.lane.events.captureFailed = true

theorem failRequest_strip {s : State} (h : s.capture.inFlight = none) (id x y row rows : Nat) (result : StripResult) :
    StripFailed s (failRequest s (.strip id x y row rows) result) id result := by
  unfold failRequest
  simp only
  split
  · next r hr =>
    refine ⟨by rw [← h]; rfl, rfl, rfl, rfl, fun j => ?_⟩
    change tget (tput s.photos.directory id _) j = _
    rw [tget_tput, hr]
    rfl
  · next hr =>
    refine ⟨by rw [← h]; rfl, rfl, rfl, rfl, fun j => ?_⟩
    change tget s.photos.directory j = _
    split
    · next hj => rw [hj, hr]; rfl
    · rfl

theorem failRequest_glyph {s : State} (hi : s.capture.inFlight = none) (font slot x y w h : Nat) (result : StripResult) :
    GlyphFailed s (failRequest s (.glyph font slot x y w h) result) font slot :=
  ⟨by rw [← hi]; rfl, rfl, rfl, rfl⟩

theorem failInFlight_strip {s : State} {id x y row rows n : Nat}
    (h : s.capture.inFlight = some ⟨.strip id x y row rows, n⟩) (result : StripResult) :
    StripFailed s (failInFlight s result) id result := by
  have hfail := failRequest_strip (s := { s with capture := { s.capture with inFlight := none } }) rfl id x y row rows result
  rw [failInFlight, h]
  exact ⟨hfail.capture, hfail.glyphs, hfail.photos, hfail.raised, hfail.record⟩

theorem failInFlight_glyph {s : State} {font slot x y w h n : Nat}
    (hi : s.capture.inFlight = some ⟨.glyph font slot x y w h, n⟩) (result : StripResult) :
    GlyphFailed s (failInFlight s result) font slot := by
  rw [failInFlight, hi]
  exact ⟨rfl, rfl, rfl, rfl⟩

theorem failInFlight_idle {s : State} (h : s.capture.inFlight = none) (result : StripResult) : failInFlight s result = s := by
  rw [failInFlight, h]

/-! ### Source columns -/

theorem pixelsOf_length (bytes : List Byte) : (pixelsOf bytes).length = bytes.length / 3 := by
  refine le_antisymm (not_lt.1 fun h => ?_) (not_lt.1 fun h => ?_)
  · have hat := pixelsOf_getElem? bytes (bytes.length / 3)
    rw [if_neg (by omega), List.getElem?_eq_none_iff] at hat
    omega
  · have hat := pixelsOf_getElem? bytes (pixelsOf bytes).length
    rw [if_pos (by omega), List.getElem?_eq_none le_rfl] at hat
    cases hat

/-- A run of source columns lies in the pixels a line gives exactly where the canvas and the bytes reach that far. -/
theorem sourceFits_iff (bytes : List Byte) (width x w : Nat) :
    x + w ≤ ((pixelsOf bytes).take width).length ↔ x + w ≤ width ∧ 3 * (x + w) ≤ bytes.length := by
  rw [List.length_take, pixelsOf_length]
  omega

/-- The pixels of a run of source columns. -/
theorem sourceRun {bytes : List Byte} {width x w : Nat} (h : x + w ≤ width ∧ 3 * (x + w) ≤ bytes.length) :
    (((pixelsOf bytes).take width).drop x).take w = (List.range w).map fun i => colorAt bytes (3 * (x + i)) := by
  refine List.ext_getElem? fun i => ?_
  rw [List.getElem?_take, List.getElem?_drop, canvasPixels_getElem?, List.getElem?_map]
  by_cases hi : i < w
  · rw [if_pos hi, if_pos (by omega), List.getElem?_range hi, Option.map_some]
  · rw [if_neg hi, List.getElem?_eq_none (by rw [List.length_range]; omega), Option.map_none]

/-! ### The cells of one photo -/

section
variable {p : PhotoStore} {id : Nat} {r : PhotoRec} {px py qx qy : Nat}

theorem blockIndex_lt {w h : Nat} (hx : px < w) (hy : py < h) :
    py / 32 * ((w + 31) / 32) + px / 32 < (w + 31) / 32 * ((h + 31) / 32) := by
  have hx' : px / 32 < (w + 31) / 32 := by omega
  have hy' : py / 32 + 1 ≤ (h + 31) / 32 := by omega
  calc py / 32 * ((w + 31) / 32) + px / 32 < py / 32 * ((w + 31) / 32) + (w + 31) / 32 := by omega
    _ = (w + 31) / 32 * (py / 32 + 1) := by ring
    _ ≤ (w + 31) / 32 * ((h + 31) / 32) := Nat.mul_le_mul_left _ hy'

/-- A pixel of a photo of its size lies in a block of its list. -/
theorem pixelBlock_getElem (hs : PhotoSized r) (hx : px < r.w) (hy : py < r.h) :
    ∃ h : py / 32 * ((r.w + 31) / 32) + px / 32 < r.blocks.length,
      pixelBlock r px py = r.blocks[py / 32 * ((r.w + 31) / 32) + px / 32] := by
  obtain ⟨-, -, -, -, hl⟩ := hs
  have h := blockIndex_lt hx hy
  rw [← hl] at h
  exact ⟨h, by rw [pixelBlock, List.getD_eq_getElem?_getD, List.getElem?_eq_getElem h, Option.getD_some]⟩

theorem pixelCell_lt (hp : BlocksPartitioned p) (hs : PhotosSized p) (hr : tget p.directory id = some r) (hx : px < r.w)
    (hy : py < r.h) : pixelCell r px py < 6144 * 1024 := by
  obtain ⟨h, hb⟩ := pixelBlock_getElem (hs _ (mem_of_tget hr)) hx hy
  have hlt : pixelBlock r px py < 6144 := hb ▸ hp.lt hr (List.getElem_mem h)
  unfold pixelCell
  omega

/-- Two pixels of a photo lie in two cells. -/
theorem pixelCell_inj (hp : BlocksPartitioned p) (hs : PhotosSized p) (hr : tget p.directory id = some r) (hx : px < r.w)
    (hy : py < r.h) (hx' : qx < r.w) (hy' : qy < r.h) (h : pixelCell r px py = pixelCell r qx qy) : px = qx ∧ py = qy := by
  obtain ⟨hi, hb⟩ := pixelBlock_getElem (hs _ (mem_of_tget hr)) hx hy
  obtain ⟨hi', hb'⟩ := pixelBlock_getElem (hs _ (mem_of_tget hr)) hx' hy'
  have hblock : pixelBlock r px py = pixelBlock r qx qy := by rw [← pixelCell_div, ← pixelCell_div, h]
  have hindex : py / 32 * ((r.w + 31) / 32) + px / 32 = qy / 32 * ((r.w + 31) / 32) + qx / 32 :=
    (hp.blocks_nodup hr).getElem_inj_iff.1 (hb.symm.trans (hblock.trans hb'))
  have hpos : 0 < (r.w + 31) / 32 := by omega
  have hdiv : ∀ a b, b < (r.w + 31) / 32 → (a * ((r.w + 31) / 32) + b) / ((r.w + 31) / 32) = a := fun a b hb => by
    rw [Nat.add_comm, Nat.add_mul_div_right _ _ hpos, Nat.div_eq_of_lt hb, Nat.zero_add]
  have hrow : py / 32 = qy / 32 := by
    rw [← hdiv (py / 32) (px / 32) (by omega), hindex, hdiv _ _ (by omega)]
  rw [hrow] at hindex
  unfold pixelCell at h
  omega

/-- A photo row written whole: its pixels are those of the line, every other pixel of the photo reads as before (R103). -/
theorem photoPixel_writeRow (hp : BlocksPartitioned p) (hs : PhotosSized p) (hr : tget p.directory id = some r) {row : Nat}
    (hrow : row < r.h) (line : Nat → Color) (hx : px < r.w) (hy : py < r.h) :
    photoPixel (writePhotoRow r row 0 ((List.range r.w).map line) p.memory) r px py =
      if py = row then line px else photoPixel p.memory r px py := by
  have hlen : ((List.range r.w).map line).length = r.w := by rw [List.length_map, List.length_range]
  rw [photoPixel_eq, photoPixel_eq]
  split
  · next heq =>
    subst heq
    have hat : ((List.range r.w).map line)[px]? = some (line px) := by
      rw [List.getElem?_map, List.getElem?_range hx, Option.map_some]
    have h := writePhotoRow_at (r := r) (py := py) _ 0 p.memory hat
      (by rw [Nat.zero_add]; exact pixelCell_lt hp hs hr hx hy) fun j hj hl hcell => by
        rw [hlen] at hl
        rw [Nat.zero_add, Nat.zero_add] at hcell
        exact absurd (pixelCell_inj hp hs hr hl hy hx hy hcell).1 (by omega)
    rwa [Nat.zero_add] at h
  · next hne =>
    refine writePhotoRow_other _ 0 _ fun k hk => .inl fun hcell => ?_
    rw [hlen] at hk
    rw [Nat.zero_add] at hcell
    exact hne (pixelCell_inj hp hs hr hk hrow hx hy hcell).2.symm

end

/-! ### Lines of the request in flight -/

section
variable {v : State} {id x y row rows n a left : Nat} {r : PhotoRec} {l : List Color}

/-- A source line that the line's pixels and the remaining budget cover is written (R103, R131). -/
theorem stripLine_written (hr : tget v.photos.directory id = some r) (hl : x + r.w ≤ l.length) (hw : r.w ≤ left)
    (f : InFlight) :
    stripLine v f id x y row rows a l left =
      (let written : State :=
        { v with
          photos :=
            { v.photos with memory := writePhotoRow r (row + (a - y)) 0 ((l.drop x).take r.w) v.photos.memory } }
      if a + 1 = y + rows then completeCapture (written.setPhoto id (stripDone r rows)) else countLine written f) := by
  simp only [stripLine, hr, and_self, if_true, hl, hw]

theorem stripLine_overrun (hr : tget v.photos.directory id = some r) (hl : x + r.w ≤ l.length) (hw : left < r.w)
    (f : InFlight) : stripLine v f id x y row rows a l left = failInFlight v .overrun := by
  simp only [stripLine, hr, hl, not_le.2 hw, and_false, if_false, if_true]

theorem stripLine_lost (hr : tget v.photos.directory id = some r) (hl : ¬ x + r.w ≤ l.length) (hw : r.w ≤ left)
    (f : InFlight) : stripLine v f id x y row rows a l left = failInFlight v .lost := by
  simp only [stripLine, hr, hl, hw, false_and, if_false, if_true]

/-- Which of the two results a line that is both short and over its budget leaves is a free value (assumption 9). -/
theorem stripLine_both (hr : tget v.photos.directory id = some r) (hl : ¬ x + r.w ≤ l.length) (hw : left < r.w)
    (f : InFlight) : stripLine v f id x y row rows a l left = failInFlight v .overrun ∨
      stripLine v f id x y row rows a l left = failInFlight v .lost := by
  simp only [stripLine, hr, hl, not_le.2 hw, false_and, if_false]
  cases Config.shortLineOverruns
  · exact .inr rfl
  · exact .inl rfl

theorem stripLine_glyphs (h : v.capture.inFlight = some ⟨.strip id x y row rows, n⟩) (f : InFlight) :
    (stripLine v f id x y row rows a l left).glyphs = v.glyphs := by
  unfold stripLine
  split
  · rfl
  · split
    · simp only
      split <;> rfl
    · (repeat' split) <;> exact (failInFlight_strip h _).glyphs

/-- The cell lines a glyph load has once a line is written (R97). -/
theorem glyphLine_written {font slot w h : Nat} (hl : x + w ≤ l.length) (f : InFlight) :
    glyphLine v f font slot x y w h a l =
      (let rows := loadingRows (slotOf v.glyphs.slots font slot) ++ [inkLine l x w]
      if a + 1 = y + h then completeCapture (v.setSlot font slot (.loaded w h rows))
      else countLine (v.setSlot font slot (.loading rows)) f) := by
  simp only [glyphLine, hl, if_true]

theorem glyphLine_short {font slot w h : Nat} (hl : ¬ x + w ≤ l.length) (f : InFlight) :
    glyphLine v f font slot x y w h a l = failInFlight v .lost := by
  simp only [glyphLine, hl, if_false]

/-- A captured cell line has ink where the luma of its canvas pixel is 128 or more (R97). -/
theorem inkLine_eq {bytes : List Byte} {width x w : Nat} (h : x + w ≤ width ∧ 3 * (x + w) ≤ bytes.length) :
    inkLine ((pixelsOf bytes).take width) x w =
      (List.range w).map fun i => decide (128 ≤ luma (colorAt bytes (3 * (x + i)))) := by
  rw [inkLine, sourceRun h, List.map_map]
  rfl

theorem loadingRows_slotOf {slots : List GlyphSlot} {font slot : Nat} {lines : List (List Bool)}
    (h : slots[font * 12 + slot]? = some (.loading lines)) : loadingRows (slotOf slots font slot) = lines := by
  rw [slotOf, slotIndex, List.getD_eq_getElem?_getD, h]
  rfl

end

/-- The row of an ACTIVE line of a frame whose input is arriving: after the output line, if there is one, the Capture Engine has
the line with what is left of its budget. -/
theorem exec_activeLine_captures {s : State} {f : Frame} {a : Nat} (bytes : List Byte) (hr : s.resetn = false)
    (hp : s.receiver.position = .lines a) (hf : s.frame = some f) (hi : inputRunning s = true) :
    ∃ v : State, v.capture = s.capture ∧ v.photos = s.photos ∧ v.glyphs = s.glyphs ∧ v.lane = s.lane ∧
      exec (.activeLine (0x01 :: bytes)) s =
        .next
          (captureLine v a ((pixelsOf bytes).take (canvasWidth s))
            (if f.snap.settings.vy ≤ a ∧ a < f.snap.settings.vy + f.snap.settings.vh then
              (lineGrants s f (a - f.snap.settings.vy)).2
            else 3072)) := by
  rw [exec_activeLine bytes hr hp hf, if_pos hi]
  by_cases hc : f.snap.settings.vy ≤ a ∧ a < f.snap.settings.vy + f.snap.settings.vh
  · rw [feedLine_covered _ hc, if_pos hc]
    exact ⟨composeLine (lineCounted s a bytes) _ _, by simp; rfl, by simp; rfl, by simp; rfl, by simp; rfl, rfl⟩
  · rw [feedLine_outside _ hc, if_neg hc]
    exact ⟨lineCounted s a bytes, rfl, rfl, rfl, rfl, rfl⟩

/-- Settles O44: a line outside the source does nothing; within it, by whether the line and its budget reach (R103–R107). -/
theorem captureLinesWriteTheirSourceAndEnd : Obligations.CaptureLinesWriteTheirSourceAndEnd := by
  unfold Obligations.CaptureLinesWriteTheirSourceAndEnd
  intro s f a bytes hr hp hf hi carries left
  obtain ⟨v, hc, hph, hg, hl, he⟩ := exec_activeLine_captures bytes hr hp hf hi
  rw [he]
  clear he
  generalize hline : (pixelsOf bytes).take (canvasWidth s) = l at *
  have hfit : ∀ x w, x + w ≤ l.length ↔ carries x w := fun x w => hline ▸ sourceFits_iff bytes (canvasWidth s) x w
  refine ⟨captureLine v a l left, rfl, ?_, ?_, ?_⟩
  · intro h
    rw [captureLine_idle (hc ▸ h)]
    exact ⟨hc, hph, hg⟩
  · intro id x y row rows n r hflight hget fails
    have hflight' := hc ▸ hflight
    have hget' := hph ▸ hget
    have hfails : ∀ result, captureLine v a l left = failInFlight v result → fails result := by
      intro result heq
      have h := failInFlight_strip hflight' result
      refine ⟨?_, ?_, ?_, ?_⟩
      · rw [heq, h.capture, hc]
      · rw [heq, h.raised]
      · rw [heq, failInFlight_memory, hph]
      · rw [heq, h.record, if_pos rfl, hget', hc]; rfl
    rw [captureLine_strip hflight'] at hfails ⊢
    refine ⟨?_, fun hout => ?_, fun hlow hhigh => ?_⟩
    · split
      · rw [stripLine_glyphs hflight', hg]
      · exact hg
    · rw [if_neg (by omega)]
      exact ⟨hc, hph⟩
    rw [if_pos ⟨hlow, hhigh⟩] at hfails ⊢
    refine ⟨fun hcar hw => ?_, fun hcar hw => ?_, fun hcar hw => ?_, fun hcar hw => ?_⟩
    · exact hfails _ (stripLine_overrun hget' ((hfit ..).2 hcar) hw _)
    · exact hfails _ (stripLine_lost hget' (fun h => hcar ((hfit ..).1 h)) hw _)
    · exact (stripLine_both hget' (fun h => hcar ((hfit ..).1 h)) hw _).imp (hfails _) (hfails _)
    · rw [stripLine_written hget' ((hfit ..).2 hcar) hw]
      refine ⟨fun hpart hsized hstrips px py hx hy => ?_, fun hmore => ?_, fun hlast => ?_⟩
      · obtain ⟨-, r', hget'', hrow⟩ := hstrips _ (mem_allRequests.2 (.inl ⟨_, hflight, rfl⟩)) id x y row rows rfl
        obtain rfl : r = r' := Option.some.inj (hget.symm.trans hget'')
        have hmem := photoPixel_writeRow hpart hsized hget (row := row + (a - y)) (by omega)
          (fun i => colorAt bytes (3 * (x + i))) hx hy
        rw [← sourceRun hcar, hline] at hmem
        rw [← hmem, ← hph]
        split <;> rfl
      · rw [if_neg (by omega)]
        exact ⟨by rw [← hc]; rfl, by rw [← hph]; rfl, by rw [← hl]; rfl⟩
      · rw [if_pos hlast]
        refine ⟨by rw [← hc]; rfl, rfl, ?_⟩
        change tget (tput v.photos.directory id (stripDone r rows)) id = _
        rw [tget_tput, if_pos rfl]
        rfl
  · intro font slot x y w h n lines hflight hslot written becomes
    have hflight' := hc ▸ hflight
    have hbecomes : ∀ glyph engine u, captureLine v a l left = u →
        u.glyphs = { v.glyphs with slots := v.glyphs.slots.set (font * 12 + slot) glyph } → u.capture = engine →
        becomes glyph engine := by
      intro glyph engine u hu hglyphs hcapture
      refine ⟨?_, hu ▸ hcapture⟩
      rw [hu, hglyphs, hg]
    rw [captureLine_glyph hflight'] at hbecomes ⊢
    refine ⟨?_, fun hout => ?_, fun hlow hhigh => ?_⟩
    · split
      · rw [glyphLine_photos _ _ _ _ _ _ _ rfl hflight', hph]
      · exact hph
    · rw [if_neg (by omega)]
      exact ⟨hc, hg⟩
    rw [if_pos ⟨hlow, hhigh⟩] at hbecomes ⊢
    have hrows : loadingRows (slotOf v.glyphs.slots font slot) = lines := loadingRows_slotOf (hg ▸ hslot)
    refine ⟨fun hcar => ?_, fun hcar hmore => ?_, fun hcar hlast => ?_⟩
    · have hfail := failInFlight_glyph hflight' .lost
      have hshort := glyphLine_short (v := v) (a := a) (y := y) (font := font) (slot := slot) (h := h)
        (fun hl' => hcar ((hfit x w).1 hl')) ⟨.glyph font slot x y w h, n⟩
      exact ⟨hbecomes _ _ _ hshort hfail.glyphs (hc ▸ hfail.capture), hshort ▸ hfail.raised⟩
    all_goals
      have hwrite := glyphLine_written (v := v) (a := a) (y := y) (font := font) (slot := slot) (h := h)
        ((hfit x w).2 hcar) ⟨.glyph font slot x y w h, n⟩
      rw [hrows, ← hline, inkLine_eq hcar, hline] at hwrite
      simp only at hwrite
    · rw [if_neg (by omega)] at hwrite
      exact hbecomes _ _ _ hwrite rfl (by rw [← hc]; rfl)
    · rw [if_pos hlast] at hwrite
      exact ⟨hbecomes _ _ _ hwrite rfl (by rw [← hc]; rfl), by rw [hwrite]; rfl⟩

end Sys2Proof.Machine
end

section
/-! The laws of a frame start (R49): which events it raises, what it settles before the snapshot is fixed (R31, R43–R45), the frame
it begins and the line a local frame composes at once (R144). -/

namespace Sys2Proof.Machine

/-! ### Events -/

/-- Whether an event stands. -/
def EventSet.has (es : EventSet) : Event → Bool
  | .packetCrc => es.packetCrc
  | .intakeOverrun => es.intakeOverrun
  | .returnCrc => es.returnCrc
  | .linkChanged => es.linkChanged
  | .panelChanged => es.panelChanged
  | .takeDone => es.takeDone
  | .takeCancelled => es.takeCancelled
  | .auditDone => es.auditDone
  | .captureDone => es.captureDone
  | .captureFailed => es.captureFailed

theorem EventSet.has_raise_self (es : EventSet) (e : Event) : (es.raise e).has e = true := by cases e <;> rfl

theorem EventSet.has_raise_of_ne (es : EventSet) {e e' : Event} (h : e' ≠ e) : (es.raise e).has e' = es.has e' := by
  cases e' <;> cases e <;> first | rfl | exact absurd rfl h

/-- Between s and t only events of the list are raised, and none is cleared. -/
def RaisesOnly (es : List Event) (s t : State) : Prop :=
  ∀ e, (s.lane.events.has e = true → t.lane.events.has e = true) ∧
    (e ∉ es → t.lane.events.has e = s.lane.events.has e)

namespace RaisesOnly

variable {s t u : State} {es es' : List Event}

theorem of_eq (h : t.lane.events = s.lane.events) : RaisesOnly es s t := fun e =>
  ⟨fun he => by rw [h]; exact he, fun _ => by rw [h]⟩

theorem raise {e : Event} (he : e ∈ es) (s : State) : RaisesOnly es s (s.raise e) := fun e' => by
  by_cases h : e' = e
  · subst h
    exact ⟨fun _ => EventSet.has_raise_self _ _, fun hn => absurd he hn⟩
  · have hsame : (s.raise e).lane.events.has e' = s.lane.events.has e' := EventSet.has_raise_of_ne _ h
    exact ⟨fun hs => hsame.trans hs, fun _ => hsame⟩

theorem trans (h : RaisesOnly es s t) (h' : RaisesOnly es t u) : RaisesOnly es s u := fun e =>
  ⟨fun he => (h' e).1 ((h e).1 he), fun hn => ((h' e).2 hn).trans ((h e).2 hn)⟩

theorem mono (h : RaisesOnly es s t) (hsub : es ⊆ es') : RaisesOnly es' s t := fun e =>
  ⟨(h e).1, fun hn => (h e).2 fun he => hn (hsub he)⟩

end RaisesOnly

section
variable (s : State)

theorem failRequest_raises (q : CaptureRequest) (r : StripResult) :
    RaisesOnly [.captureFailed] s (failRequest s q r) := by
  unfold failRequest
  split
  · simp only
    split
    · exact .trans (.of_eq rfl) (.raise (List.mem_singleton_self _) _)
    · exact .trans (.of_eq rfl) (.raise (List.mem_singleton_self _) _)
  · exact .trans (.of_eq rfl) (.raise (List.mem_singleton_self _) _)

theorem failInFlight_raises (r : StripResult) : RaisesOnly [.captureFailed] s (failInFlight s r) := by
  unfold failInFlight
  split
  · exact .of_eq rfl
  · exact failRequest_raises { s with capture := { s.capture with inFlight := none } } _ r

theorem armIfGood_raises (c : FrameCause) : RaisesOnly [.captureFailed] s (armIfGood s c) := by
  unfold armIfGood
  split
  · unfold armCapture
    split
    · next request rest _ _ _ _ _ =>
      split
      · exact .of_eq rfl
      · exact failRequest_raises { s with capture := { s.capture with queue := rest } } request _
    · exact .of_eq rfl
  · exact .of_eq rfl

theorem completeAudit_raises (x : StagedState) (r : AuditResult) : RaisesOnly [.auditDone] s (completeAudit s x r) :=
  .trans (.of_eq rfl) (.raise (List.mem_singleton_self _) _)

theorem auditFrame_raises : RaisesOnly [.auditDone] s (auditFrame s) := by
  unfold auditFrame
  split
  · exact .of_eq rfl
  · split
    · exact completeAudit_raises s _ _
    · split
      · split
        · exact completeAudit_raises s _ _
        · split
          · exact .of_eq rfl
          · exact completeAudit_raises s _ _
      · exact .of_eq rfl

theorem settleTake_raises (n : FrameNo) (c : Bool) : RaisesOnly [.takeCancelled, .takeDone] s (settleTake s n c) := by
  unfold settleTake
  split
  · exact .of_eq rfl
  · split
    · exact .trans (.of_eq rfl) (.raise (List.mem_cons_self ..) _)
    · split
      · exact .trans (.of_eq rfl) (.raise (List.mem_cons_of_mem _ (List.mem_singleton_self _)) _)
      · exact .of_eq rfl

theorem samplePanel_raises : RaisesOnly [.panelChanged] s (samplePanel s) := by
  unfold samplePanel
  extract_lets level
  split
  · exact .of_eq rfl
  · split
    · exact .of_eq rfl
    · exact .trans (.of_eq rfl) (.raise (List.mem_singleton_self _) _)

end

/-! ### What a frame start settles -/

/-- The state in which a frame start settles the pending take: the request in flight is lost, the flags are kept, the audit's
check is evaluated, the frame is numbered and the counts have expired. -/
def beforeTake (s : State) (c : FrameCause) : State :=
  expireCounts
    (timeFrame (auditFrame (keepFlags (failInFlight s .lost))) (newNumber s c) (startsMissed c))

section
variable (s : State) (c : FrameCause) (b : Bool)

theorem settleFrame_eq :
    settleFrame s c b = settleTake (beforeTake s c) (newNumber s c) (isDiscontinuity s c || b) := by
  have hn : newNumber (auditFrame (keepFlags (failInFlight s .lost))) c = newNumber s c := by
    cases c <;> simp [newNumber]
  have hd : isDiscontinuity (auditFrame (keepFlags (failInFlight s .lost))) c = isDiscontinuity s c := by
    cases c <;> simp [isDiscontinuity]
  simp only [settleFrame, beforeTake, hn, hd]

theorem auditFrame_pending : (auditFrame s).tables.pendingTake = s.tables.pendingTake := by
  unfold auditFrame
  (repeat' split) <;> rfl

theorem expireCounts_states : (expireCounts s).tables.pendingTake = s.tables.pendingTake ∧
    (expireCounts s).tables.stagedState = s.tables.stagedState := by
  unfold expireCounts
  split <;> exact ⟨rfl, rfl⟩

theorem beforeTake_tables : (beforeTake s c).tables.live = s.tables.live ∧
    (beforeTake s c).tables.staged = s.tables.staged ∧ (beforeTake s c).tables.pendingTake = s.tables.pendingTake := by
  simp [beforeTake, expireCounts_banks, auditFrame_banks, expireCounts_states, auditFrame_pending]

theorem beforeTake_raises : RaisesOnly [.captureFailed, .auditDone] s (beforeTake s c) :=
  .trans ((failInFlight_raises s .lost).mono (by simp))
    (.trans (t := keepFlags (failInFlight s .lost)) (.of_eq (by simp))
      (.trans ((auditFrame_raises _).mono (by simp)) (.of_eq (by simp [beforeTake]))))

theorem settleFrame_raises :
    RaisesOnly [.captureFailed, .auditDone, .takeCancelled, .takeDone] s (settleFrame s c b) := by
  rw [settleFrame_eq]
  exact .trans ((beforeTake_raises s c).mono (by simp)) ((settleTake_raises _ _ _).mono (by simp))

/-- The events after the frame is settled: the panel sample's and the armed request's. -/
theorem frameStart_raises_settled :
    RaisesOnly [.panelChanged, .captureFailed] (settleFrame s c b) (frameStart s c b) := by
  unfold frameStart
  exact .trans (t := beginFrame (settleFrame s c b) (frameKind c b)) (.of_eq (by simp))
    (.trans ((samplePanel_raises _).mono (by simp))
      (.trans (t := stepBacklight (samplePanel (beginFrame (settleFrame s c b) (frameKind c b)))) (.of_eq (by simp))
        (.trans ((armIfGood_raises _ c).mono (by simp)) (.of_eq (by simp)))))

theorem frameStart_raises :
    RaisesOnly [.captureFailed, .auditDone, .takeCancelled, .takeDone, .panelChanged] s (frameStart s c b) :=
  .trans ((settleFrame_raises s c b).mono (by simp)) ((frameStart_raises_settled s c b).mono (by simp))

/-- A frame start does not raise LINK_CHANGED. -/
theorem frameStart_linkChanged : (frameStart s c b).lane.events.linkChanged = s.lane.events.linkChanged :=
  (frameStart_raises s c b .linkChanged).2 (by decide)

end

/-! ### The pending take (R43, R44) -/

section
variable {s : State} {c : FrameCause} {b : Bool} {target : FrameNo}

theorem settleFrame_noTake (h : s.tables.pendingTake = none) : settleFrame s c b = beforeTake s c := by
  rw [settleFrame_eq, settleTake, (beforeTake_tables s c).2.2, h]

/-- What a frame start leaves of the tables where it cancels the pending take (R44). -/
theorem frameStart_cancels (h : s.tables.pendingTake = some target) (hc : (isDiscontinuity s c || b) = true) :
    (frameStart s c b).tables.pendingTake = none ∧ (frameStart s c b).tables.live = s.tables.live ∧
    (frameStart s c b).lane.events.takeCancelled = true := by
  have heq : settleFrame s c b = cancelTake (beforeTake s c) := by
    rw [settleFrame_eq, settleTake, (beforeTake_tables s c).2.2, h, hc]
    rfl
  refine ⟨by rw [frameStart_tables, heq]; rfl, ?_, (frameStart_raises_settled s c b .takeCancelled).1 (by rw [heq]; rfl)⟩
  rw [frameStart_tables, heq]
  exact (beforeTake_tables s c).1

/-- What a frame start leaves where it applies the pending take (R43, R45). -/
theorem frameStart_applies (h : s.tables.pendingTake = some (newNumber s c)) (hc : (isDiscontinuity s c || b) = false) :
    (frameStart s c b).tables.pendingTake = none ∧ (frameStart s c b).tables.live = s.tables.staged ∧
    (frameStart s c b).tables.staged = s.tables.staged ∧ (frameStart s c b).tables.stagedState = .clean ∧
    (frameStart s c b).lane.events.takeDone = true ∧
    (frameStart s c b).photos.refCounts = allReferences s.tables.staged ∧
    (frameStart s c b).glyphs.useCounts = allFontUses s.tables.staged := by
  have heq : settleFrame s c b = applyTake (beforeTake s c) := by
    rw [settleFrame_eq, settleTake, (beforeTake_tables s c).2.2, h, hc]
    simp only [Bool.false_eq_true, if_false, if_true]
  obtain ⟨-, hstaged, -⟩ := beforeTake_tables s c
  have hcounts := (armIfGood_captured
    (stepBacklight (samplePanel (beginFrame (settleFrame s c b) (frameKind c b)))) c).counts
  have href : (frameStart s c b).photos.refCounts = (settleFrame s c b).photos.refCounts := by
    unfold frameStart
    simp [hcounts]
  have huse : (frameStart s c b).glyphs.useCounts = (settleFrame s c b).glyphs.useCounts := by
    unfold frameStart
    simp [hcounts]
  rw [frameStart_tables, href, huse, heq]
  refine ⟨rfl, hstaged, hstaged, rfl, (frameStart_raises_settled s c b .takeDone).1 (by rw [heq]; rfl), ?_, ?_⟩
  · exact congrArg allReferences hstaged
  · exact congrArg allFontUses hstaged

/-- A take that is neither cancelled nor due stays pending. -/
theorem frameStart_waits (h : s.tables.pendingTake = some target) (hc : (isDiscontinuity s c || b) = false)
    (hn : target ≠ newNumber s c) :
    (frameStart s c b).tables.pendingTake = some target ∧ (frameStart s c b).tables.live = s.tables.live := by
  have heq : settleFrame s c b = beforeTake s c := by
    rw [settleFrame_eq, settleTake, (beforeTake_tables s c).2.2, h, hc]
    simp only [Bool.false_eq_true, if_false, hn]
  rw [frameStart_tables, heq]
  exact ⟨(beforeTake_tables s c).2.2.trans h, (beforeTake_tables s c).1⟩

/-- Where no take is pending, the tables' live bank and take stand. -/
theorem frameStart_noTake (h : s.tables.pendingTake = none) :
    (frameStart s c b).tables.pendingTake = none ∧ (frameStart s c b).tables.live = s.tables.live := by
  rw [frameStart_tables, settleFrame_noTake h]
  exact ⟨(beforeTake_tables s c).2.2.trans h, (beforeTake_tables s c).1⟩

end

/-! ### The frame begun -/

/-- The frame as a frame start begins it, before any line is composed. -/
def newFrame (s : State) (kind : FrameKind) : Frame :=
  { snap := snapshotOf s, tiles := frameTiles (snapshotOf s), kind := kind, inputOpen := kind != .localFrame, nextLine := 0 }

/-- The state of a frame start as the new frame's first lines find it: the panel sampled, the backlight stepped, the oldest
request armed. -/
def beforeLines (s : State) (c : FrameCause) (b : Bool) : State :=
  armIfGood (stepBacklight (samplePanel (beginFrame (settleFrame s c b) (frameKind c b)))) c

section
variable (s : State) (c : FrameCause) (b : Bool)

theorem frameStart_eq : frameStart s c b = openFrame (beforeLines s c b) (frameKind c b) := rfl

theorem beforeLines_progress : (beforeLines s c b).frame = some (newFrame (settleFrame s c b) (frameKind c b)) := by
  simp only [beforeLines, armIfGood_frame, stepBacklight_frame, samplePanel_frame]
  rfl

theorem beforeLines_out : (beforeLines s c b).out = s.out := by simp [beforeLines]

theorem frameStart_photos : (frameStart s c b).photos = (beforeLines s c b).photos := by simp [frameStart_eq]

theorem frameStart_glyphs : (frameStart s c b).glyphs = (beforeLines s c b).glyphs := by simp [frameStart_eq]

variable {s c b}

/-- A header frame begins with its snapshot's tile list and no line composed. -/
theorem frameStart_header (hk : frameKind c b ≠ .localFrame) :
    (frameStart s c b).frame = some (newFrame (settleFrame s c b) (frameKind c b)) ∧
    (frameStart s c b).out.composed = s.out.composed := by
  have heq : frameStart s c b = (beforeLines s c b).drive .frameMark := by
    rw [frameStart_eq, openFrame]
    exact fun h => hk h
  rw [heq, drive_out, State.drive_frame, beforeLines_out]
  exact ⟨beforeLines_progress s c b, rfl⟩

theorem frameStart_local (hk : frameKind c b = .localFrame) :
    frameStart s c b = composeFillLine ((beforeLines s c b).drive .frameMark) := by
  rw [frameStart_eq, hk, openFrame]

theorem marked_progress : ((beforeLines s c b).drive .frameMark).frame =
    some (newFrame (settleFrame s c b) (frameKind c b)) := by
  rw [State.drive_frame, beforeLines_progress]

/-- A local frame without lines begins like a header frame. -/
theorem frameStart_noLines (hk : frameKind c b = .localFrame) (hv : s.context.settings.vh = 0) :
    (frameStart s c b).frame = some (newFrame (settleFrame s c b) (frameKind c b)) ∧
    (frameStart s c b).out.composed = s.out.composed := by
  have hvh : (newFrame (settleFrame s c b) (frameKind c b)).snap.settings.vh = 0 := by
    simp only [newFrame, snapshotOf, settleFrame_frame, hv]
  rw [frameStart_local hk, composeFillLine_of_le marked_progress (hvh.trans_le (Nat.zero_le _)), marked_progress, drive_out,
    beforeLines_out]
  exact ⟨rfl, rfl⟩

/-- A local frame composes its line 0 at once, over the fill colour (R144). -/
theorem frameStart_firstLine (hk : frameKind c b = .localFrame) (hv : 0 < s.context.settings.vh) :
    (frameStart s c b).frame =
      some
        { newFrame (settleFrame s c b) (frameKind c b) with
          tiles := tilesAfter
            (grantTiles (frameStart s c b).photos.directory 0 3072 (frameTiles (snapshotOf (settleFrame s c b)))).1
          nextLine := 1 } ∧
    (frameStart s c b).out.composed = s.out.composed ++
      [⟨0, linePixels (frameStart s c b) (snapshotOf (settleFrame s c b))
        (grantTiles (frameStart s c b).photos.directory 0 3072 (frameTiles (snapshotOf (settleFrame s c b)))).1
        (fun _ => s.context.settings.fill) 0⟩] := by
  have hset : (newFrame (settleFrame s c b) (frameKind c b)).snap.settings = s.context.settings := by
    simp only [newFrame, snapshotOf, settleFrame_frame]
  have hvh : 0 < (newFrame (settleFrame s c b) (frameKind c b)).snap.settings.vh := by rwa [hset]
  have hphotos := frameStart_photos s c b
  have hpix : linePixel (frameStart s c b) = linePixel ((beforeLines s c b).drive .frameMark) :=
    linePixel_congr (by rw [hphotos, State.drive_photos]) (by rw [frameStart_glyphs, State.drive_glyphs])
  simp only [linePixels, hpix, hphotos]
  rw [frameStart_local hk, composeFillLine_of_lt marked_progress hvh, composeLine_progress marked_progress,
    composeLine_out marked_progress, drive_out, beforeLines_out, hset]
  have hgrants : lineGrants ((beforeLines s c b).drive .frameMark) (newFrame (settleFrame s c b) (frameKind c b))
      (newFrame (settleFrame s c b) (frameKind c b)).nextLine =
        grantTiles (beforeLines s c b).photos.directory 0 3072 (frameTiles (snapshotOf (settleFrame s c b))) := by
    rw [lineGrants, State.drive_photos]
    rfl
  rw [hgrants]
  exact ⟨rfl, rfl⟩

/-- The frame a frame start begins, whatever lines it composes. -/
theorem frameStart_begun (s : State) (c : FrameCause) (b : Bool) :
    ∃ f, (frameStart s c b).frame = some f ∧ f.snap = snapshotOf (settleFrame s c b) ∧ f.kind = frameKind c b ∧
      f.inputOpen = (frameKind c b != .localFrame) ∧ (frameKind c b ≠ .localFrame → f.nextLine = 0) := by
  by_cases hk : frameKind c b = .localFrame
  · obtain hv | hv := Nat.eq_zero_or_pos s.context.settings.vh
    · exact ⟨_, (frameStart_noLines hk hv).1, rfl, rfl, rfl, fun _ => rfl⟩
    · exact ⟨_, (frameStart_firstLine hk hv).1, rfl, rfl, rfl, fun h => absurd hk h⟩
  · exact ⟨_, (frameStart_header hk).1, rfl, rfl, rfl, fun _ => rfl⟩

end

end Sys2Proof.Machine
end

section
/-! Header lines and misses: the frame a good header begins in LIVE and LOSS_WAIT (R141, R142, R149), the headers that count toward
LIVE (R148, R150, R151), and the frames that misses begin (R146, R149). -/

namespace Sys2Proof.Machine

variable {s : State} {line : List Byte} {pins : Pins} {h : Header}

/-- The state in which a line has been repeated. -/
def lineRepeated (s : State) (line : List Byte) (pins : Pins) : State :=
  { s with pins := pins, out := { noOutputs with through := [.line line] } }

/-- A header line of a node where no packet waits: it is repeated and judged. -/
theorem exec_headerLine (hr : s.resetn = false) (hp : s.receiver.position = .awaitHeader) (hq : s.intake = []) :
    exec (.headerLineEnd line pins) s =
      .next (headerEnd (lineRepeated s line pins) line) := by
  have hr' : (s.begin.latch pins).resetn = false := hr
  have hp' : ((s.begin.latch pins).repeatThrough (.line line)).receiver.position = .awaitHeader := hp
  have hq' : (headerEnd ((s.begin.latch pins).repeatThrough (.line line)) line).intake = [] :=
    (headerEnd_frame _ line).2.2.1.trans hq
  simp only [exec, execHeaderLineEnd, lineArrives, hr', Bool.false_eq_true, if_false, readLine, hp', headerArrives,
    process_empty hq']
  rfl

theorem headerEnd_good (hh : parseHeader line = some h) :
    headerEnd s line =
      goodHeader
        { s with receiver := ⟨.lines 0, some (h.width, h.height)⟩, timing := setClock s.timing h } h := by
  simp only [headerEnd, hh]

theorem headerEnd_bad (hh : parseHeader line = none) :
    headerEnd s line = badHeader { s with receiver := { s.receiver with position := .lines 0 } } := by
  simp only [headerEnd, hh]

/-- The clock a good header leaves: its time where it is in range (R154). -/
theorem setClock_clock (t : FrameTiming) (h : Header) :
    if h.hour < 24 ∧ h.minute < 60 ∧ h.second < 60 then
      (setClock t h).hour = h.hour ∧ (setClock t h).minute = h.minute ∧ (setClock t h).second = h.second ∧
      (setClock t h).timeValid = true
    else
      (setClock t h).hour = t.hour ∧ (setClock t h).minute = t.minute ∧ (setClock t h).second = t.second ∧
      (setClock t h).timeValid = t.timeValid := by
  unfold setClock
  split <;> exact ⟨rfl, rfl, rfl, rfl⟩

/-- The clock leaves every other field of the timing. -/
theorem setClock_rest (t : FrameTiming) (h : Header) :
    (setClock t h).link = t.link ∧ (setClock t h).number = t.number ∧ (setClock t h).good = t.good ∧
    (setClock t h).localTimer = t.localTimer := by
  unfold setClock
  split <;> exact ⟨rfl, rfl, rfl, rfl⟩

/-! ### A good header in LIVE and LOSS_WAIT -/

/-- The state in which the frame of a good header in LIVE or LOSS_WAIT starts. -/
structure HeaderStarts (s x : State) (h : Header) : Prop where
  tables : x.tables = s.tables
  receiver : x.receiver = ⟨.lines 0, some (h.width, h.height)⟩
  timing : ∃ good, x.timing = { setClock s.timing h with link := .live, good := good, miss := 0 }
  linkChanged : x.lane.events.linkChanged = (s.lane.events.linkChanged || s.timing.link == .lossWait)

theorem headerEnd_starts (hh : parseHeader line = some h) (hl : s.timing.link = .live ∨ s.timing.link = .lossWait) :
    ∃ x, headerEnd s line = frameStart x (.goodHeader h.number) false ∧ HeaderStarts s x h := by
  rw [headerEnd_good hh, goodHeader]
  obtain hl | hl := hl
  · simp only [(setClock_rest s.timing h).1, hl]
    refine ⟨_, rfl, rfl, rfl, ⟨(setClock s.timing h).good, ?_⟩, ?_⟩
    · rw [← hl, ← (setClock_rest s.timing h).1]
    · rw [hl]
      exact (Bool.or_false _).symm
  · simp only [(setClock_rest s.timing h).1, hl]
    refine ⟨_, rfl, rfl, rfl, ⟨0, rfl⟩, ?_⟩
    rw [hl]
    exact (Bool.or_true _).symm

/-- The timing a frame start leaves (R142, R146, R152). -/
theorem frameStart_timed (s : State) (c : FrameCause) (b : Bool) :
    (frameStart s c b).timing =
      { s.timing with
        number := newNumber s c
        missed := startsMissed c
        headerTimer :=
          match s.timing.link with
          | .live | .lossWait => true
          | _ => s.timing.headerTimer } := frameStart_timing s c b

/-- The snapshot's number and bank are the new frame's (R49, R50). -/
theorem snapshotOf_settleFrame (s : State) (c : FrameCause) (b : Bool) :
    (snapshotOf (settleFrame s c b)).number = (frameStart s c b).timing.number ∧
    (snapshotOf (settleFrame s c b)).bank = (frameStart s c b).tables.live := by
  rw [frameStart_timing, frameStart_tables, ← settleFrame_timing s c b]
  exact ⟨rfl, rfl⟩

/-- Settles O37: the frame start of a good header, by `frameStart_timed` and the three outcomes of a pending take. -/
theorem goodHeaderBeginsItsFrame : Obligations.GoodHeaderBeginsItsFrame := by
  unfold Obligations.GoodHeaderBeginsItsFrame
  intro s line pins h hr hp hl hh hq
  obtain ⟨x, he, hx⟩ := headerEnd_starts (s := lineRepeated s line pins) hh hl
  have htables : x.tables = s.tables := hx.tables
  have hchanged : x.lane.events.linkChanged = (s.lane.events.linkChanged || s.timing.link == .lossWait) := hx.linkChanged
  obtain ⟨good, htiming⟩ := hx.timing
  obtain ⟨f, hf, hsnap, hkind, hopen, hnext⟩ := frameStart_begun x (.goodHeader h.number) false
  obtain ⟨hnumber, hbank⟩ := snapshotOf_settleFrame x (.goodHeader h.number) false
  have htime := frameStart_timed x (.goodHeader h.number) false
  rw [htiming] at htime
  have hdisc : (isDiscontinuity x (.goodHeader h.number) || false) = (h.number != s.timing.number + 1) := by
    rw [Bool.or_false, isDiscontinuity, htiming]
    exact congrArg (fun n => h.number != n + 1) (setClock_rest s.timing h).2.1
  refine ⟨frameStart x (.goodHeader h.number) false, f, by rw [exec_headerLine hr hp hq, he], hf, hkind,
    hopen.trans rfl, hnext FrameKind.noConfusion, ?_, ?_, ?_, ?_, ?_, ?_, ?_, ?_, ?_, ?_, ?_⟩
  · rw [hsnap, hnumber, htime]; rfl
  · rw [hsnap, hbank]
  · rw [htime]; rfl
  · rw [htime]
  · rw [htime]
  · rw [htime]; rfl
  · rw [htime]
  · rw [(frameStart_frame x _ _).2.2.1, hx.receiver]
  · rw [htime]; exact setClock_clock s.timing h
  · rw [frameStart_linkChanged, hchanged]
  · intro target ht
    rw [← htables] at ht
    by_cases hn : h.number = s.timing.number + 1
    · have hno : (isDiscontinuity x (.goodHeader h.number) || false) = false :=
        hdisc.trans (bne_eq_false_iff_eq.2 hn)
      rw [if_neg (not_not.2 hn)]
      split
      · next hdue =>
        rw [← htables]
        exact frameStart_applies (c := .goodHeader h.number) (hdue ▸ ht) hno
      · next hdue =>
        rw [← htables]
        exact frameStart_waits ht hno hdue
    · rw [if_pos hn, ← htables]
      exact frameStart_cancels ht (hdisc.trans (bne_iff_ne.2 hn))

/-! ### Headers that count toward LIVE -/

/-- Outside LIVE and LOSS_WAIT a good header counts, or enters LIVE with its frame (R148, R150, R151). -/
theorem goodHeader_counting {target : Nat} (hl : s.timing.link = .search ∧ target = 2 ∨ s.timing.link = .standalone ∧ target = 8) :
    goodHeader s h =
      if s.timing.good + 1 < target then countGood s else frameStart (enterLive s) (.goodHeader h.number) false := by
  obtain ⟨hl, rfl⟩ | ⟨hl, rfl⟩ := hl
  all_goals
    simp only [goodHeader, hl, goodTarget]
    rfl

/-- Settles O38: a bad header clears the count, a good one raises it or, completing it, begins its frame in LIVE. -/
theorem headersCountTowardLive : Obligations.HeadersCountTowardLive := by
  unfold Obligations.HeadersCountTowardLive
  intro s line pins target hr hp hq hl
  rw [exec_headerLine hr hp hq]
  refine ⟨fun hh => ?_, fun h hh hcount => ?_, fun h hh hcount => ?_⟩
  · rw [headerEnd_bad hh, badHeader]
    obtain ⟨hl, -⟩ | ⟨hl, -⟩ := hl
    all_goals
      have hl' : (lineRepeated s line pins).timing.link = _ := hl
      simp only [hl']
      rfl
  all_goals
    obtain ⟨hlink, hnumber, hgood, hlocal⟩ := setClock_rest s.timing h
    rw [headerEnd_good hh, goodHeader_counting (target := target) (by rwa [← hlink] at hl)]
    have hg : (setClock (lineRepeated s line pins).timing h).good = s.timing.good := hgood
    simp only [hg]
  · rw [if_pos hcount]
    refine ⟨_, rfl, rfl, rfl, rfl, hlink, hnumber, congrArg (· + 1) hgood, rfl, hlocal, rfl, rfl, fun h1 h2 h3 => ?_⟩
    have hclock := setClock_clock s.timing h
    rwa [if_pos ⟨h1, h2, h3⟩] at hclock
  · rw [if_neg (not_lt.2 hcount)]
    generalize hx : ({ lineRepeated s line pins with
      receiver := ⟨.lines 0, some (h.width, h.height)⟩, timing := setClock (lineRepeated s line pins).timing h } : State) = x
    obtain ⟨f, hf, hsnap, hkind, hopen, hnext⟩ := frameStart_begun (enterLive x) (.goodHeader h.number) false
    have htime := frameStart_timed (enterLive x) (.goodHeader h.number) false
    refine ⟨frameStart (enterLive x) (.goodHeader h.number) false, f, rfl, hf, hkind, hopen.trans rfl,
      hnext FrameKind.noConfusion, ?_, ?_, ?_, ?_, ?_, ?_, ?_, ?_⟩
    · rw [hsnap, (snapshotOf_settleFrame ..).1, htime]; rfl
    · rw [htime]; rfl
    · rw [htime]; rfl
    · rw [htime]; rfl
    · rw [htime]; rfl
    · rw [htime]; rfl
    · rw [htime]; rfl
    · rw [frameStart_linkChanged]; rfl

/-! ### Misses -/

/-- The state in which the frame of a miss starts, and the link state and counts it has: LOSS_WAIT at the first and second miss,
STANDALONE at the third (R149). -/
structure MissStarts (w x : State) (standalone : Bool) : Prop where
  tables : x.tables = w.tables
  receiver : x.receiver = w.receiver
  frame : x.frame = w.frame
  number : x.timing.number = w.timing.number
  link :
    (w.timing.link = .live ∧ standalone = false ∧ x.timing.link = .lossWait ∧ x.timing.miss = 1 ∧
      x.lane.events.linkChanged = true) ∨
    (w.timing.link = .lossWait ∧ w.timing.miss + 1 < 3 ∧ standalone = false ∧ x.timing.link = .lossWait ∧
      x.timing.miss = w.timing.miss + 1) ∨
    (w.timing.link = .lossWait ∧ 3 ≤ w.timing.miss + 1 ∧ standalone = true ∧ x.timing.link = .standalone ∧
      x.timing.miss = 0 ∧ x.timing.good = 0 ∧ x.timing.localTimer = true ∧ x.timing.headerTimer = true ∧
      x.lane.events.linkChanged = true)

theorem missFrame_starts {w : State} (hl : w.timing.link = .live ∨ w.timing.link = .lossWait) (cause : FrameCause) :
    ∃ x standalone, missFrame w cause = frameStart x cause standalone ∧ MissStarts w x standalone := by
  unfold missFrame
  obtain hl | hl := hl
  · simp only [hl]
    exact ⟨_, _, rfl, rfl, rfl, rfl, rfl, .inl ⟨hl, rfl, rfl, rfl, rfl⟩⟩
  · simp only [hl]
    split
    · next hm => exact ⟨_, _, rfl, rfl, rfl, rfl, rfl, .inr (.inl ⟨hl, hm, rfl, rfl, rfl⟩)⟩
    · next hm =>
      exact ⟨_, _, rfl, rfl, rfl, rfl, rfl, .inr (.inr ⟨hl, not_lt.1 hm, rfl, rfl, rfl, rfl, rfl, rfl, rfl⟩)⟩

/-- The two rows of a miss, with no packet waiting, are a miss on a state with the same link, tables and frame. -/
theorem exec_miss {i : Instr} {byHeader : Bool} (hr : s.resetn = false) (hq : s.intake = [])
    (hl : s.timing.link = .live ∨ s.timing.link = .lossWait)
    (hi : (byHeader = true ∧ s.receiver.position = .awaitHeader ∧
        ∃ line pins, i = .headerLineEnd line pins ∧ parseHeader line = none) ∨
      (byHeader = false ∧ s.timing.headerTimer = true ∧ ∃ pins, i = .headerTimerExpires pins)) :
    ∃ w cause, exec i s = .next (missFrame w cause) ∧ w.timing = s.timing ∧ w.tables = s.tables ∧ w.frame = s.frame ∧
      w.receiver.canvas = s.receiver.canvas ∧
      (byHeader = true ∧ cause = .badHeader ∨ byHeader = false ∧ cause = .headerTimer) := by
  obtain ⟨rfl, hp, line, pins, rfl, hh⟩ | ⟨rfl, ht, pins, rfl⟩ := hi
  · refine ⟨{ lineRepeated s line pins with receiver := { s.receiver with position := .lines 0 } }, .badHeader, ?_, rfl, rfl,
      rfl, rfl, .inl ⟨rfl, rfl⟩⟩
    rw [exec_headerLine hr hp hq, headerEnd_bad hh, badHeader]
    obtain hl | hl := hl
    all_goals
      have hl' : (lineRepeated s line pins).timing.link = _ := hl
      simp only [hl']
      rfl
  · refine ⟨s.begin.latch pins, .headerTimer, ?_, rfl, rfl, rfl, rfl, .inr ⟨rfl, rfl⟩⟩
    have hq' : (missFrame (s.begin.latch pins) .headerTimer).intake = [] := (missFrame_frame ..).2.2.2.1.trans hq
    obtain hl | hl := hl <;> simp only [exec, execHeaderTimerExpires, ht, hl, process_empty hq']

/-- Settles O39, by the three link states a miss can leave and the outcomes of a pending take. -/
theorem missesBeginPredictedFrames : Obligations.MissesBeginPredictedFrames := by
  unfold Obligations.MissesBeginPredictedFrames
  intro s i byHeader hr hframe hq hl hi
  obtain ⟨w, cause, he, hwt, hwtab, hwf, hwc, hcause⟩ := exec_miss hr hq hl hi
  obtain ⟨x, standalone, hmiss, hx⟩ := missFrame_starts (hwt ▸ hl) cause
  have htables : x.tables = s.tables := hx.tables.trans hwtab
  have hnumber : newNumber x cause = s.timing.number + 1 := by
    obtain ⟨g, hg⟩ := Option.isSome_iff_exists.1 (hx.frame.trans hwf ▸ hframe)
    obtain ⟨-, rfl⟩ | ⟨-, rfl⟩ := hcause <;> simp only [newNumber, hg, hx.number, hwt]
  have hmissed : startsMissed cause = true := by obtain ⟨-, rfl⟩ | ⟨-, rfl⟩ := hcause <;> rfl
  have hdisc : (isDiscontinuity x cause || standalone) = standalone := by
    obtain ⟨-, rfl⟩ | ⟨-, rfl⟩ := hcause <;> rfl
  have hlink := hx.link
  rw [hwt] at hlink
  have halone : (s.timing.link = .lossWait ∧ 3 ≤ s.timing.miss + 1) ↔ standalone = true := by
    obtain ⟨h1, rfl, -⟩ | ⟨h1, h2, rfl, -⟩ | ⟨h1, h2, rfl, -⟩ := hlink
    · exact ⟨fun h => absurd (h1.symm.trans h.1) LinkState.noConfusion, fun h => absurd h Bool.false_ne_true⟩
    · exact ⟨fun h => absurd h2 (not_lt.2 h.2), fun h => absurd h Bool.false_ne_true⟩
    · exact ⟨fun _ => rfl, fun _ => ⟨h1, h2⟩⟩
  obtain ⟨f, hf, hsnap, hkind, hopen, hnext⟩ := frameStart_begun x cause standalone
  have htime := frameStart_timed x cause standalone
  have hchanged := frameStart_linkChanged x cause standalone
  have hheader : byHeader = true → standalone = false → frameKind cause standalone = .badHeader := by
    rintro rfl rfl
    obtain ⟨-, rfl⟩ | ⟨h, -⟩ := hcause
    · rfl
    · cases h
  have hlocal : byHeader = false ∨ standalone = true → frameKind cause standalone = .localFrame := by
    rintro (rfl | rfl)
    · obtain ⟨h, -⟩ | ⟨-, rfl⟩ := hcause
      · cases h
      · rfl
    · obtain ⟨-, rfl⟩ | ⟨-, rfl⟩ := hcause <;> rfl
  refine ⟨frameStart x cause standalone, f, he.trans (congrArg Host.Outcome.next hmiss), hf, ?_, ?_, ?_, ?_, ?_, ?_, ?_, ?_,
    ?_, ?_, ?_⟩
  · rw [htime]; exact hnumber
  · rw [hsnap, (snapshotOf_settleFrame ..).1, htime]; exact hnumber
  · rw [htime]; exact hmissed
  · rw [htime]
    obtain ⟨-, -, h, -⟩ | ⟨-, -, -, h, -⟩ | ⟨-, -, -, h, -, -, -, h', -⟩ := hlink
    · simp only [h]
    · simp only [h]
    · simp only [h, h']
  · rw [(frameStart_frame x _ _).2.2.1, hx.receiver, hwc]
  · intro hlive
    rw [htime, hchanged]
    obtain ⟨-, -, h1, h2, h3⟩ | ⟨h, -⟩ | ⟨h, -⟩ := hlink
    · exact ⟨h1, h2, h3⟩
    · exact absurd (hlive.symm.trans h) LinkState.noConfusion
    · exact absurd (hlive.symm.trans h) LinkState.noConfusion
  · intro hwait hm
    rw [htime]
    obtain ⟨h, -⟩ | ⟨-, -, -, h1, h2⟩ | ⟨-, h, -⟩ := hlink
    · exact absurd (hwait.symm.trans h) LinkState.noConfusion
    · exact ⟨h1, h2⟩
    · exact absurd hm (not_lt.2 h)
  · intro h
    have hst := halone.1 h
    rw [htime, hchanged]
    obtain ⟨-, h, -⟩ | ⟨-, -, h, -⟩ | ⟨-, -, -, h1, h2, h3, h4, -, h5⟩ := hlink
    · exact absurd (hst.symm.trans h) Bool.noConfusion
    · exact absurd (hst.symm.trans h) Bool.noConfusion
    · refine ⟨h1, h2, h3, h4, h5, ?_⟩
      rw [← htables]
      cases hp : x.tables.pendingTake with
      | none => exact ⟨(frameStart_noTake hp).1, (frameStart_noTake hp).2, fun h => absurd h Bool.false_ne_true⟩
      | some target =>
        obtain ⟨h1, h2, h3⟩ := frameStart_cancels hp (hdisc.trans hst)
        exact ⟨h1, h2, fun _ => h3⟩
  · intro hby hno
    have hst : standalone = false := Bool.eq_false_iff.2 fun h => hno (halone.2 h)
    have hk := hheader hby hst
    rw [hkind, hopen, hnext (by rw [hk]; exact FrameKind.noConfusion), hk]
    exact ⟨rfl, rfl, rfl⟩
  · intro h
    have hk := hlocal (h.imp_right halone.1)
    rw [hkind, hopen, hk]
    exact ⟨rfl, rfl⟩
  · intro hno target htake
    have hst : standalone = false := Bool.eq_false_iff.2 fun h => hno (halone.2 h)
    rw [← htables] at htake ⊢
    split
    · next hdue =>
      obtain ⟨h1, h2, -, -, h3, -⟩ := frameStart_applies (c := cause) (b := standalone)
        (htake.trans (congrArg some (hdue.trans hnumber.symm))) (hdisc.trans hst)
      exact ⟨h1, h2, h3⟩
    · next hdue =>
      exact frameStart_waits htake (hdisc.trans hst) fun h => hdue (h.trans hnumber)

end Sys2Proof.Machine
end

section
/-! What every frame start fixes: the snapshot and the tile list (R48–R50, R54, R55, R117), read from the state as the row leaves it. -/

namespace Sys2Proof.Machine

variable {s u v : State} {i : Instr} {c : FrameCause} {b : Bool}

/-- Whatever begins a frame, the row has set no more than `atFrameStart` names. -/
theorem Begun.eq (h : Begun s i v c b) : ∃ receiver timing changed, v = atFrameStart s i receiver timing changed := by
  cases h with
  | good => exact ⟨_, _, _, rfl⟩
  | other => exact ⟨_, _, _, rfl⟩

/-- The failure of the request in flight reads and writes only the engine, the photos and the glyphs, and the events. -/
theorem failInFlight_congr (hc : v.capture = s.capture) (hp : v.photos = s.photos) (hg : v.glyphs = s.glyphs)
    (r : StripResult) :
    (failInFlight v r).capture = (failInFlight s r).capture ∧ (failInFlight v r).photos = (failInFlight s r).photos ∧
    (failInFlight v r).glyphs = (failInFlight s r).glyphs := by
  cases s
  cases v
  dsimp only at hc hp hg
  subst hc hp hg
  unfold failInFlight failRequest
  dsimp only
  (repeat' split) <;> exact ⟨rfl, rfl, rfl⟩

theorem expireCounts_slots (s : State) : (expireCounts s).glyphs.slots = s.glyphs.slots := by
  unfold expireCounts
  split <;> rfl

theorem settleTake_slots (s : State) (n : FrameNo) (x : Bool) : (settleTake s n x).glyphs.slots = s.glyphs.slots := by
  unfold settleTake
  (repeat' split) <;> rfl

theorem settleFrame_slots (s : State) (c : FrameCause) (b : Bool) :
    (settleFrame s c b).glyphs.slots = (failInFlight s .lost).glyphs.slots := by
  simp [settleFrame, settleTake_slots, expireCounts_slots]

/-! ### The snapshot -/

section
variable (s : State) (c : FrameCause) (b : Bool)

/-- The snapshot's active entry is that of the new frame's minute in its live bank (R54). -/
theorem snapshot_active :
    (snapshotOf (settleFrame s c b)).active =
      activeEntry s.timing.timeValid (minuteOfDay s.timing) (frameStart s c b).tables.live.schedule := by
  rw [frameStart_tables]
  simp only [snapshotOf, settleFrame_timing]
  rfl

/-- The override a frame start leaves (R58). -/
theorem frameStart_override :
    (frameStart s c b).context.override = overrideAfter s.context (snapshotOf (settleFrame s c b)).active := by
  rw [frameStart_context]
  rfl

/-- The override as the frame start leaves it gives the page and the column, else the active entry (R55). -/
theorem snapshot_page :
    (snapshotOf (settleFrame s c b)).page =
      framePage (frameStart s c b).context.override (snapshotOf (settleFrame s c b)).active := by
  rw [frameStart_override]
  simp only [snapshotOf, settleFrame_frame]

theorem snapshot_column :
    (snapshotOf (settleFrame s c b)).column =
      frameColumn (frameStart s c b).context.override (snapshotOf (settleFrame s c b)).active := by
  rw [frameStart_override]
  simp only [snapshotOf, settleFrame_frame]

/-- The clock, the settings, the highlights, the gamma tables and the targets of a snapshot (R49, R55, R163). -/
theorem snapshot_context :
    (snapshotOf (settleFrame s c b)).minute = s.timing.hour * 60 + s.timing.minute ∧
    (snapshotOf (settleFrame s c b)).timeValid = s.timing.timeValid ∧
    (snapshotOf (settleFrame s c b)).settings = s.context.settings ∧
    (snapshotOf (settleFrame s c b)).high0 = s.context.high0 ∧ (snapshotOf (settleFrame s c b)).high1 = s.context.high1 ∧
    (snapshotOf (settleFrame s c b)).gamma = s.output.gamma ∧
    (snapshotOf (settleFrame s c b)).schedTarget =
      scheduleTarget s.context.settings (snapshotOf (settleFrame s c b)).active ∧
    (snapshotOf (settleFrame s c b)).target = s.output.override.getD (snapshotOf (settleFrame s c b)).schedTarget := by
  simp only [snapshotOf, settleFrame_frame, settleFrame_timing, and_true]
  exact ⟨rfl, rfl⟩

/-- The tables of a snapshot (R49, R60–R66, R78, R79). -/
theorem snapshot_tables :
    (snapshotOf (settleFrame s c b)).status =
      itemStatuses (snapshotOf (settleFrame s c b)).bank (snapshotOf (settleFrame s c b)).column s.tables.stock ∧
    (snapshotOf (settleFrame s c b)).cache =
      priceCache (snapshotOf (settleFrame s c b)).bank (snapshotOf (settleFrame s c b)).column ∧
    (snapshotOf (settleFrame s c b)).photos = (failInFlight s .lost).photos.directory.map (fun e => (e.1, e.2.state)) ∧
    (snapshotOf (settleFrame s c b)).glyphs = (failInFlight s .lost).glyphs.slots.map slotLoaded ∧
    (snapshotOf (settleFrame s c b)).plans =
      textPlans (snapshotOf (settleFrame s c b)).bank (snapshotOf (settleFrame s c b)).page
        (snapshotOf (settleFrame s c b)).cache (snapshotOf (settleFrame s c b)).glyphs
        (failInFlight s .lost).glyphs.slots := by
  have hstock := (StoresKept.settleFrame s c b).stock
  simp only [snapshotOf, hstock, settleFrame_slots, (settleFrame_engine s c b).1, and_self]

end

/-! ### Local frames -/

/-- The expiry of the local frame timer in SEARCH and STANDALONE is a local frame's start (R143). -/
theorem exec_localFrameTimer {pins : Pins} (ht : s.timing.localTimer = true)
    (hl : s.timing.link = .search ∨ s.timing.link = .standalone) :
    exec (.localFrameTimerExpires pins) s = .next (frameStart (s.begin.latch pins) .localTimer false).process := by
  obtain hl | hl := hl <;> simp only [exec, execLocalFrameTimerExpires, ht, hl]

theorem activeEntry_key (a : Option (Nat × SchedEntry)) :
    (prevOf a).map (fun e => (e.start, e.page, e.column)) = a.map fun e => (e.2.start, e.2.page, e.2.column) := by
  cases a <;> rfl

/-- Two entries are compared by start, page and column (R58). -/
theorem prevOf_ne_iff (a : Option (Nat × SchedEntry)) (p : Option PrevEntry) :
    prevOf a ≠ p ↔ a.map (fun e => (e.2.start, e.2.page, e.2.column)) ≠ p.map fun e => (e.start, e.page, e.column) := by
  rw [← activeEntry_key, not_iff_not]
  have hinj : Function.Injective fun e : PrevEntry => (e.start, e.page, e.column) := fun x y hxy => by
    cases x
    cases y
    simpa using hxy
  exact ⟨congrArg _, fun h => Option.map_injective hinj h⟩

/-- An override is released where it is UNTIL_BOUNDARY and the active entry has changed, and else kept (R58). -/
theorem overrideAfter_cases (context : FrameContext) (a : Option (Nat × SchedEntry)) :
    ((∃ o, context.override = some o ∧ o.mode = .untilBoundary ∧ prevOf a ≠ context.prev) →
      overrideAfter context a = none) ∧
    (¬ (∃ o, context.override = some o ∧ o.mode = .untilBoundary ∧ prevOf a ≠ context.prev) →
      overrideAfter context a = context.override) := by
  unfold overrideAfter
  cases context.override with
  | none => exact ⟨fun _ => rfl, fun _ => rfl⟩
  | some o =>
    simp only [Option.some.injEq, exists_eq_left']
    exact ⟨fun h => if_pos h, fun h => if_neg h⟩

/-- What a page or a column read through an override or the active entry is (R55). -/
theorem framePlace_cases (o : Option Override) (a : Option (Nat × SchedEntry)) :
    (∀ x, o = some x → framePage o a = x.page ∧ frameColumn o a = x.column) ∧
    (∀ k e, a = some (k, e) → o = none → framePage o a = e.page ∧ frameColumn o a = e.column) ∧
    (a = none → o = none → framePage o a = 0 ∧ frameColumn o a = 0) := by
  refine ⟨?_, ?_, ?_⟩
  · rintro x rfl; exact ⟨rfl, rfl⟩
  · rintro k e rfl rfl; exact ⟨rfl, rfl⟩
  · rintro rfl rfl; exact ⟨rfl, rfl⟩

/-- The flags kept of the frame that ends (R137). -/
theorem keepFlags_some {f : Frame} (h : s.frame = some f) :
    (keepFlags s).kept = some ⟨f.snap.number, f.snap.page, f.tiles.map fun e => (e.id, e.flags)⟩ := by
  simp only [keepFlags, h]

theorem keepFlags_none (h : s.frame = none) : (keepFlags s).kept = s.kept := by simp only [keepFlags, h]

/-- The number of a local frame: one more than the last, or 0 where it is the first after a reset (R152). -/
theorem newNumber_localTimer (s : State) :
    newNumber s .localTimer = if s.frame.isSome = true then s.timing.number + 1 else 0 := by
  cases h : s.frame <;> simp [newNumber, h]

/-- Settles O47: the snapshot of the frame start, the override it leaves and the flags it keeps. -/
theorem localFrameFixesItsSnapshot : Obligations.LocalFrameFixesItsSnapshot := by
  unfold Obligations.LocalFrameFixesItsSnapshot
  intro s pins hr ht hl htake
  have hexec := exec_localFrameTimer (pins := pins) ht hl
  generalize hv : s.begin.latch pins = v at hexec
  have hvc : v.context = s.context := hv ▸ rfl
  have hvt : v.timing = s.timing := hv ▸ rfl
  have hvo : v.output = s.output := hv ▸ rfl
  have hvf : v.frame = s.frame := hv ▸ rfl
  have hvtab : v.tables = s.tables := hv ▸ rfl
  have hvq : v.intake = s.intake := hv ▸ rfl
  have hvl : v.lane = s.lane := hv ▸ rfl
  have hvk : v.kept = s.kept := hv ▸ rfl
  have hvout : v.out = noOutputs := hv ▸ rfl
  obtain ⟨f, hf, hsnap, hkind, hopen, -⟩ := frameStart_begun v .localTimer false
  have htime := frameStart_timed v .localTimer false
  obtain ⟨hnumber, hbank⟩ := snapshotOf_settleFrame v .localTimer false
  obtain ⟨hminute, hvalid, hset, hhigh0, hhigh1, hgamma, hsched, htarget⟩ := snapshot_context v .localTimer false
  have hover := frameStart_override v .localTimer false
  have hpage := snapshot_page v .localTimer false
  have hcolumn := snapshot_column v .localTimer false
  have hactive := snapshot_active v .localTimer false
  have hlive : (frameStart v .localTimer false).tables.live = s.tables.live :=
    (frameStart_noTake (hvtab ▸ htake)).2.trans (congrArg _ hvtab)
  have hcontext := frameStart_context v .localTimer false
  have hkept := frameStart_kept v .localTimer false
  have hline := frameStart_firstLine (s := v) (c := .localTimer) (b := false) rfl
  rw [← hsnap] at hnumber hbank hminute hvalid hset hhigh0 hhigh1 hgamma hsched htarget hover hpage hcolumn hactive hcontext
  rw [hvc] at hset hhigh0 hhigh1 hsched hover hcontext hline
  rw [hvt] at hminute hvalid htime hactive
  rw [hvo] at hgamma htarget
  rw [hlive] at hactive hbank
  obtain ⟨hreleased, hheld⟩ := overrideAfter_cases s.context f.snap.active
  simp only [prevOf_ne_iff] at hreleased hheld
  obtain ⟨hplace, hentry, hnone⟩ := framePlace_cases (frameStart v .localTimer false).context.override f.snap.active
  rw [← hpage, ← hcolumn] at hplace
  simp only [← hpage, ← hcolumn] at hentry hnone
  refine ⟨frameStart v .localTimer false, _, f, hexec, process_drains _, ?_, ?_, hf, hkind, hopen.trans rfl, hnumber, ?_, ?_,
    ?_, ?_, hlive, hbank, hminute, hvalid, hset, hhigh0, hhigh1, hgamma, ?_, hactive, ?_, ?_, ?_, ?_, ?_, ?_, hplace,
    ?_, ?_, ?_, ?_, ?_⟩
  · rw [(frameStart_frame v _ _).2.2.2.1, hvq]
  · rw [(frameStart_lane v _ _).1, hvl]
  · rw [htime, ← hvf, ← hvt]; exact newNumber_localTimer v
  · rw [htime]
  · rw [htime, ← ht]
  · rw [htime]; rfl
  · rw [htarget]; cases s.output.override <;> rfl
  · exact fun h => hover.trans (hreleased h)
  · exact fun h => hover.trans (hheld h)
  · rw [hcontext]; exact activeEntry_key _
  · rw [hcontext]; rfl
  · rw [hcontext]; rfl
  · rw [hcontext]; rfl
  · intro k e h
    exact ⟨by rw [hsched, h]; rfl, hentry k e h⟩
  · intro h
    exact ⟨by rw [hsched, h]; rfl, hnone h⟩
  · intro e he
    rw [hkept, keepFlags_some (hvf.trans he)]
  · intro h
    rw [hkept, keepFlags_none (hvf.trans h), hvk]
  · intro h
    obtain ⟨hframe, hcomposed⟩ := hline h
    obtain rfl := Option.some.inj (hf.symm.trans hframe)
    exact ⟨rfl, _, by rw [hcomposed, hvout]; rfl⟩

end Sys2Proof.Machine
end

section
/-! Every frame start, whatever makes it (R49): its snapshot and tile list, the panel sample and the fade step (R161, R165), the
audit's check (R31, R32) and the capture request it arms (R102, R106, R108). -/

namespace Sys2Proof.Machine

/-! ### The snapshot and the tile list -/

/-- The glyph slots after the request in flight is lost: a glyph load's slot is EMPTY (R108). -/
theorem failInFlight_slots (s : State) (r : StripResult) :
    (failInFlight s r).glyphs.slots =
      match s.capture.inFlight with
      | some ⟨.glyph font slot _ _ _ _, _⟩ => s.glyphs.slots.set (font * 12 + slot) .empty
      | _ => s.glyphs.slots := by
  split
  · next h => rw [(failInFlight_glyph h r).glyphs]
  · next hno =>
    cases hf : s.capture.inFlight with
    | none => rw [failInFlight_idle hf]
    | some f =>
      obtain ⟨q, n⟩ := f
      cases q with
      | strip id x y row rows => rw [(failInFlight_strip hf r).glyphs]
      | glyph font slot x y w h => exact absurd hf (hno font slot x y w h n)

/-- A failed request leaves the state of every photo (R106). -/
theorem failInFlight_photoStates (s : State) (r : StripResult) (id : Nat) :
    (tget (failInFlight s r).photos.directory id).map (fun x => x.state) =
      (tget s.photos.directory id).map fun x => x.state := by
  cases hf : s.capture.inFlight with
  | none => rw [failInFlight_idle hf]
  | some f =>
    obtain ⟨q, n⟩ := f
    cases q with
    | strip id' x y row rows =>
      rw [(failInFlight_strip hf r).record]
      split
      · next h => subst h; rw [Option.map_map]; rfl
      · rfl
    | glyph font slot x y w h => rw [(failInFlight_glyph hf r).photos]

/-- Settles O48: the snapshot laws on the state as the row leaves it, and the line a local frame composes. -/
theorem everyFrameStartFixesItsSnapshot : Obligations.EveryFrameStartFixesItsSnapshot := by
  unfold Obligations.EveryFrameStartFixesItsSnapshot
  intro s i hr hi
  obtain ⟨v, c, b, hbegun, hexec⟩ := exec_beginsFrame hr hi
  obtain ⟨receiver, timing, changed, hv⟩ := hbegun.eq
  have hvc : v.context = s.context := hv ▸ rfl
  have hvo : v.output = s.output := hv ▸ rfl
  have hvtab : v.tables = s.tables := hv ▸ rfl
  have hvq : v.intake = s.intake := hv ▸ rfl
  have hvout : v.out.composed = [] := hv ▸ rfl
  obtain ⟨-, hlostPhotos, hlostGlyphs⟩ := failInFlight_congr (v := v) (s := s) (hv ▸ rfl) (hv ▸ rfl) (hv ▸ rfl) .lost
  obtain ⟨f, hf, hsnap, hkind, -, -⟩ := frameStart_begun v c b
  obtain ⟨hnumber, hbank⟩ := snapshotOf_settleFrame v c b
  obtain ⟨hminute, hvalid, hset, hhigh0, hhigh1, hgamma, hsched, htarget⟩ := snapshot_context v c b
  obtain ⟨hstatus, hcache, hphotos, hglyphs, hplans⟩ := snapshot_tables v c b
  have hpage := snapshot_page v c b
  have hcolumn := snapshot_column v c b
  have hactive := snapshot_active v c b
  have htime := frameStart_timed v c b
  rw [hlostPhotos] at hphotos
  rw [hlostGlyphs] at hglyphs hplans
  rw [failInFlight_slots] at hglyphs hplans
  rw [← hsnap] at hnumber hbank hminute hvalid hset hhigh0 hhigh1 hgamma hsched htarget hstatus hcache
  rw [← hsnap] at hphotos hglyphs hplans hpage hcolumn hactive
  rw [hvc] at hset hhigh0 hhigh1 hsched
  rw [hvo] at hgamma htarget
  rw [hvtab] at hstatus
  obtain ⟨hplace, hentry, hnone⟩ := framePlace_cases (frameStart v c b).context.override f.snap.active
  rw [← hpage, ← hcolumn] at hplace
  simp only [← hpage, ← hcolumn] at hentry hnone
  have hclock : f.snap.minute = (frameStart v c b).timing.hour * 60 + (frameStart v c b).timing.minute ∧
      f.snap.timeValid = (frameStart v c b).timing.timeValid := by rw [htime]; exact ⟨hminute, hvalid⟩
  refine ⟨frameStart v c b, _, f, hexec, process_drains _, ?_, hf, hbank, ?_, hstatus, hcache, ?_, hglyphs, hplans, hnumber,
    hclock.1, hclock.2, ?_, hplace, ?_, ?_, ?_, ?_, hset, hhigh0, hhigh1, hgamma, ?_, ?_⟩
  · rw [(frameStart_frame v _ _).2.2.2.1, hvq]
  · intro h
    rw [← hvtab] at h ⊢
    exact (frameStart_noTake h).2
  · intro id
    rw [hphotos, ← failInFlight_photoStates s .lost id]
    exact tget_map _ (fun _ (r : PhotoRec) => r.state) id
  · rw [hactive, hbank, hvalid, hminute]; rfl
  · intro k e h
    exact ⟨by rw [hsched, h]; rfl, hentry k e h⟩
  · intro h
    exact ⟨by rw [hsched, h]; rfl, hnone h⟩
  · intro held h
    rw [htarget, h]; rfl
  · intro h
    rw [htarget, h]; rfl
  · intro h
    have hplain : (frameStart v c b).frame = some (newFrame (settleFrame v c b) (frameKind c b)) ∧
        (frameStart v c b).out.composed = v.out.composed := by
      by_cases hk : frameKind c b = .localFrame
      · have hvh : f.snap.settings.vh = 0 := h.resolve_left (not_not.2 (hkind.trans hk))
        rw [hset, ← hvc] at hvh
        exact frameStart_noLines hk hvh
      · exact frameStart_header hk
    obtain rfl := Option.some.inj (hf.symm.trans hplain.1)
    exact ⟨rfl, rfl, hplain.2.trans hvout⟩
  · intro hk hvh
    rw [hset, ← hvc] at hvh
    obtain ⟨hframe, hcomposed⟩ := frameStart_firstLine (hkind ▸ hk) hvh
    rw [← hsnap, hvout, hvc, ← hset] at hcomposed
    rw [← hsnap] at hframe
    have heq := Option.some.inj (hf.symm.trans hframe)
    exact ⟨(congrArg Frame.tiles heq).trans rfl, (congrArg Frame.nextLine heq).trans rfl, hcomposed⟩

end Sys2Proof.Machine
end

section
/-! Every frame start, whatever makes it: the panel sample and the fade step (R160, R161, R165, R166), the audit's check (R31, R32)
and the capture request it arms (R102, R106, R108). -/

namespace Sys2Proof.Machine

/-! ### The panel and the backlight -/

/-- One panel sample (R161): the panel state stands while the sample agrees with it, and changes at the fourth that does not. -/
theorem samplePanel_cases (s : State) :
    ((s.pins.panelSense = true ↔ s.output.panel = .present) →
      (samplePanel s).output.panel = s.output.panel ∧ (samplePanel s).output.debounce = 0) ∧
    (¬ (s.pins.panelSense = true ↔ s.output.panel = .present) → s.output.debounce + 1 < 4 →
      (samplePanel s).output.panel = s.output.panel ∧ (samplePanel s).output.debounce = s.output.debounce + 1) ∧
    (¬ (s.pins.panelSense = true ↔ s.output.panel = .present) → ¬ s.output.debounce + 1 < 4 →
      (samplePanel s).output.panel ≠ s.output.panel ∧ (samplePanel s).output.debounce = 0 ∧
      (samplePanel s).lane.events.panelChanged = true) := by
  unfold samplePanel
  by_cases hd : s.output.debounce + 1 < 4 <;> cases hp : s.pins.panelSense <;> cases ho : s.output.panel <;>
    simp [hd, ho, State.raise, EventSet.raise]

theorem samplePanel_level (s : State) : (samplePanel s).output.level = s.output.level := by
  unfold samplePanel
  extract_lets level
  split
  · rfl
  · split <;> rfl

/-- One fade step moves the level toward the target by at most the step, never past it (R165). -/
theorem fadeToward_toNat (level target step : Byte) :
    (level.toNat ≤ target.toNat →
      (fadeToward level target step).toNat = min target.toNat (level.toNat + step.toNat)) ∧
    (target.toNat ≤ level.toNat →
      (fadeToward level target step).toNat = max target.toNat (level.toNat - step.toNat)) := by
  have hl := level.isLt
  have ht := target.isLt
  unfold fadeToward
  split <;> rw [BitVec.toNat_ofNat] <;> omega

section
variable (s : State)

theorem stepBacklight_panel : (stepBacklight s).output.panel = s.output.panel := by
  unfold stepBacklight
  split <;> rfl

theorem stepBacklight_level {s : State} {f : Frame} (hp : s.output.panel = .present) (hf : s.frame = some f) :
    (stepBacklight s).output.level = fadeToward s.output.level f.snap.target f.snap.settings.fadeStep := by
  simp only [stepBacklight, hp, hf]

theorem composeFillLine_panel : ∃ l,
    (composeFillLine s).out.panel = s.out.panel ++ if s.output.panel = .present then l else [] := by
  cases hf : s.frame with
  | none => exact ⟨[], by simp [composeFillLine, hf]⟩
  | some f =>
    by_cases hn : f.nextLine < f.snap.settings.vh
    · exact ⟨_, by rw [composeFillLine_of_lt hf hn, composeLine_out hf]⟩
    · exact ⟨[], by rw [composeFillLine_of_le hf (not_lt.1 hn)]; simp⟩

/-- The panel port marks the frame, and carries a line it composes at once, while the panel is PRESENT (R160). -/
theorem frameStart_port (c : FrameCause) (b : Bool) :
    ∃ l, (frameStart s c b).out.panel =
      s.out.panel ++ if (frameStart s c b).output.panel = .present then .frameMark :: l else [] := by
  have hpanel : (frameStart s c b).output.panel = ((beforeLines s c b).drive .frameMark).output.panel := by
    simp [frameStart_eq]
  have hmark : ((beforeLines s c b).drive .frameMark).out.panel =
      s.out.panel ++ if ((beforeLines s c b).drive .frameMark).output.panel = .present then [.frameMark] else [] := by
    rw [drive_out, State.drive_output, beforeLines_out]
  rw [hpanel, frameStart_eq]
  unfold openFrame
  split
  · obtain ⟨l, hl⟩ := composeFillLine_panel ((beforeLines s c b).drive .frameMark)
    refine ⟨l, ?_⟩
    rw [hl, hmark, List.append_assoc]
    split <;> rfl
  · exact ⟨[], hmark⟩

end

/-- Settles O49: one sample, then one fade step toward the new frame's target, then the mark. -/
theorem frameStartsDebouncePanelAndFadeBacklight : Obligations.FrameStartsDebouncePanelAndFadeBacklight := by
  unfold Obligations.FrameStartsDebouncePanelAndFadeBacklight
  intro s i hr hi hsafe
  obtain ⟨v, c, b, hbegun, hexec⟩ := exec_beginsFrame hr hi
  obtain ⟨receiver, timing, changed, hv⟩ := hbegun.eq
  have hvq : v.intake = s.intake := hv ▸ rfl
  have hvo : v.output = s.output := hv ▸ rfl
  have hvp : v.pins = pinsOf s i := hv ▸ rfl
  have hvout : v.out.panel = [] := hv ▸ rfl
  obtain ⟨f, hf, hsnap, -⟩ := frameStart_begun v c b
  generalize hz : beginFrame (settleFrame v c b) (frameKind c b) = z
  have hzo : z.output = s.output := by rw [← hz]; simp [hvo]
  have hzp : z.pins = pinsOf s i := by rw [← hz]; simp [hvp]
  have hzf : z.frame = some (newFrame (settleFrame v c b) (frameKind c b)) := hz ▸ rfl
  have hout : (frameStart v c b).output = (stepBacklight (samplePanel z)).output := hz ▸ frameStart_output v c b
  obtain ⟨hsame, hcount, hchange⟩ := samplePanel_cases z
  rw [hzo, hzp] at hsame hcount hchange
  have hpanel : (frameStart v c b).output.panel = (samplePanel z).output.panel := by rw [hout, stepBacklight_panel]
  have hdebounce : (frameStart v c b).output.debounce = (samplePanel z).output.debounce := by
    rw [hout, stepBacklight_debounce]
  obtain ⟨l, hport⟩ := frameStart_port v c b
  rw [hvout, List.nil_append] at hport
  rw [← hpanel, ← hdebounce] at hsame hcount hchange
  refine ⟨frameStart v c b, _, f, hexec, process_drains _, ?_, hf, hsame, fun hno hd => hcount hno (by omega), fun hno hd => ?_,
    fun habsent => ?_, fun hpresent => ?_⟩
  · rw [(frameStart_frame v _ _).2.2.2.1, hvq]
  · obtain ⟨h1, h2, h3⟩ := hchange hno (by omega)
    refine ⟨h1, h2, ?_⟩
    have hraised := armIfGood_raises (stepBacklight (samplePanel z)) c .panelChanged
    have hlane : (frameStart v c b).lane = (armIfGood (stepBacklight (samplePanel z)) c).lane := by
      rw [frameStart_eq, beforeLines, hz]
      simp
    rw [hlane]
    exact hraised.1 (by rw [(stepBacklight_frame _).2.2.2.2.1]; exact h3)
  · rw [hport, habsent, hout]
    exact ⟨stepBacklight_absent _ (hout ▸ habsent), rfl⟩
  · rw [hport, if_pos hpresent]
    have hlevel : (frameStart v c b).output.level =
        fadeToward s.output.level f.snap.target f.snap.settings.fadeStep := by
      rw [hout, stepBacklight_level (hpanel ▸ hpresent) ((samplePanel_frame z).2.2.2.2.2.2.2.2.1.trans hzf),
        samplePanel_level, hzo, hsnap]
      rfl
    rw [hlevel]
    obtain ⟨hup, hdown⟩ := fadeToward_toNat s.output.level f.snap.target f.snap.settings.fadeStep
    exact ⟨rfl, hup, hdown⟩

end Sys2Proof.Machine
end

section
/-! Every frame start: the audit's check (R31, R32) and the capture request it loses, arms or fails (R102, R106, R108). -/

namespace Sys2Proof.Machine

/-! ### The audit -/

section
variable {s : State} {p : AuditProgress} {check : Nat}

/-- What an enabled check is followed by: the next enabled one (R30, R31). -/
theorem nextCheck_some {m : AuditMask} {c d : Nat} (hc : c < d) (hd : d ≤ 5) (hm : maskHas m d = true)
    (hbetween : ∀ e, c < e → e < d → maskHas m e = false) : nextCheck m (c + 1) = some d := by
  have hskip : ∀ e, e < d → (decide (c + 1 ≤ e) && maskHas m e) = false := fun e he => by
    by_cases hce : c < e
    · rw [hbetween e hce he, Bool.and_false]
    · rw [decide_eq_false (by omega), Bool.false_and]
  have htake : (decide (c + 1 ≤ d) && maskHas m d) = true := by rw [hm, Bool.and_true]; exact decide_eq_true hc
  unfold nextCheck
  rw [List.find?_eq_some_iff_append]
  refine ⟨htake, (List.range' 1 (d - 1)), List.range' (d + 1) (5 - d), ?_, fun e he => ?_⟩
  · have h15 : [1, 2, 3, 4, 5] = List.range' 1 (d - 1 + (1 + (5 - d))) := by
      rw [show d - 1 + (1 + (5 - d)) = 5 by omega]
      rfl
    rw [h15, ← List.range'_append_1, show 1 + (d - 1) = d by omega, Nat.add_comm 1 (5 - d), List.range'_succ]
  · have hlt := (List.mem_range'_1.1 he).2
    rw [hskip e (by omega)]
    rfl

theorem nextCheck_none {m : AuditMask} {c : Nat} (h : ∀ d, c < d → d ≤ 5 → maskHas m d = false) :
    nextCheck m (c + 1) = none := by
  refine List.find?_eq_none.2 fun d hd => ?_
  have hd5 : d ≤ 5 := by
    simp only [List.mem_cons, List.not_mem_nil, or_false] at hd
    omega
  by_cases hcd : c < d
  · rw [h d hcd hd5, Bool.and_false]
    exact Bool.false_ne_true
  · rw [decide_eq_false (by omega), Bool.false_and]
    exact Bool.false_ne_true

/-- An audit with no check enabled passes (R31). -/
theorem auditFrame_empty (hp : s.audit.progress = some p) (hn : p.next = none) :
    auditFrame s = completeAudit s .passed .passed := by simp only [auditFrame, hp, hn]

/-- A check that has not begun begins to run (R31). -/
theorem auditFrame_begins (hp : s.audit.progress = some p) (hn : p.next = some check) (hr : p.running = false) :
    auditFrame s = { s with audit := ⟨some ⟨p.enabled, some check, true⟩, s.audit.result⟩ } := by
  obtain ⟨enabled, next, running⟩ := p
  dsimp only at hn hr
  subst hn hr
  simp only [auditFrame, hp, Bool.false_eq_true, if_false]

/-- A check that fails completes the audit (R32). -/
theorem auditFrame_fails {failure : AuditFailure} (hp : s.audit.progress = some p) (hn : p.next = some check)
    (hr : p.running = true) (hf : runCheck s check = some failure) :
    auditFrame s = completeAudit s .failed (.failed check failure) := by simp only [auditFrame, hp, hn, hr, hf, if_true]

/-- A check that passes is followed by the next enabled one (R31). -/
theorem auditFrame_continues {d : Nat} (hp : s.audit.progress = some p) (hn : p.next = some check) (hr : p.running = true)
    (hf : runCheck s check = none) (hd : nextCheck p.enabled (check + 1) = some d) :
    auditFrame s = { s with audit := ⟨some ⟨p.enabled, some d, true⟩, s.audit.result⟩ } := by
  obtain ⟨enabled, next, running⟩ := p
  dsimp only at hn hr hd
  subst hn hr
  simp only [auditFrame, hp, hf, hd, if_true]

/-- The last enabled check, passing, completes the audit (R32). -/
theorem auditFrame_passes (hp : s.audit.progress = some p) (hn : p.next = some check) (hr : p.running = true)
    (hf : runCheck s check = none) (hd : nextCheck p.enabled (check + 1) = none) :
    auditFrame s = completeAudit s .passed .passed := by simp only [auditFrame, hp, hn, hr, hf, hd, if_true]

/-- A check reads the staged bank, the photo directory, the glyph slots and the viewport. -/
theorem runCheck_congr {s t : State} (htab : t.tables.staged = s.tables.staged)
    (hdir : t.photos.directory = s.photos.directory) (hslots : t.glyphs.slots = s.glyphs.slots) (hframe : t.frame = s.frame)
    (hcontext : t.context = s.context) : runCheck t = runCheck s := by
  funext check
  simp only [runCheck, frameSettings, htab, hdir, hslots, hframe, hcontext]

end

/-- What a frame start leaves of the audit, where no take is pending, is what its check has left. -/
theorem frameStart_audited {v : State} (c : FrameCause) (b : Bool) (h : v.tables.pendingTake = none) :
    (frameStart v c b).tables.stagedState = (auditFrame (keepFlags (failInFlight v .lost))).tables.stagedState ∧
    (frameStart v c b).audit = (auditFrame (keepFlags (failInFlight v .lost))).audit ∧
    (frameStart v c b).lane.events.auditDone =
      (auditFrame (keepFlags (failInFlight v .lost))).lane.events.auditDone := by
  have hsettled := settleFrame_noTake (c := c) (b := b) h
  have hevent := (frameStart_raises_settled v c b .auditDone).2 (by decide)
  rw [hsettled] at hevent
  rw [frameStart_tables, frameStart_audit, hsettled]
  refine ⟨?_, ?_, hevent.trans ?_⟩
  · simp [beforeTake, expireCounts_states]
  · simp [beforeTake]
  · exact congrArg (fun l => EventSet.auditDone (ReturnLane.events l)) (by simp [beforeTake])

/-- Settles O50: the check that ran in the frame that ends, evaluated on the state without the request in flight. -/
theorem auditRunsOneCheckPerFrame : Obligations.AuditRunsOneCheckPerFrame := by
  unfold Obligations.AuditRunsOneCheckPerFrame
  intro s i p hr hi hsafe hp
  obtain ⟨v, c, b, hbegun, hexec⟩ := exec_beginsFrame hr hi
  obtain ⟨receiver, timing, changed, hv⟩ := hbegun.eq
  have hvtab : v.tables = s.tables := hv ▸ rfl
  have hvq : v.intake = s.intake := hv ▸ rfl
  obtain ⟨-, hlostPhotos, hlostGlyphs⟩ := failInFlight_congr (v := v) (s := s) (hv ▸ rfl) (hv ▸ rfl) (hv ▸ rfl) .lost
  have hauditing : s.tables.stagedState = .auditing := hsafe.1.1 (by rw [hp]; rfl)
  have htake : s.tables.pendingTake = none := by
    cases h : s.tables.pendingTake with
    | none => rfl
    | some n => exact absurd hauditing (hsafe.2 (by rw [h]; rfl)).1
  obtain ⟨hstate, haudit, hdone⟩ := frameStart_audited (v := v) c b (hvtab ▸ htake)
  generalize hy : keepFlags (failInFlight v .lost) = y at hstate haudit hdone
  have hytab : y.tables = s.tables := by rw [← hy]; simp [hvtab]
  have hyaudit : y.audit = s.audit := by
    have hva : v.audit = s.audit := hv ▸ rfl
    rw [← hy]; simp [hva]
  have hyevent : y.lane.events.auditDone = s.lane.events.auditDone := by
    have hvevent : v.lane.events.auditDone = s.lane.events.auditDone := hv ▸ rfl
    have hkept : y.lane = (failInFlight v .lost).lane := by rw [← hy]; simp
    rw [hkept, ← hvevent]
    exact (failInFlight_raises v .lost .auditDone).2 (by decide)
  have hcheck : runCheck y = runCheck (failInFlight s .lost) := by
    have hvf : v.frame = s.frame := hv ▸ rfl
    have hvc : v.context = s.context := hv ▸ rfl
    rw [← hy]
    refine runCheck_congr ?_ ?_ ?_ ?_ ?_
    · simp [hvtab]
    · simp [hlostPhotos]
    · simp [hlostGlyphs]
    · simp [hvf]
    · simp [hvc]
  have hyp : y.audit.progress = some p := hyaudit ▸ hp
  refine ⟨frameStart v c b, _, hexec, process_drains _, ?_, ?_, ?_⟩
  · rw [(frameStart_frame v _ _).2.2.2.1, hvq]
  · rw [frameStart_tables, (settleFrame_banks v c b).2, hvtab]
  · intro ended completes goesOn
    have hcompletes : ∀ state result, auditFrame y = completeAudit y state result → completes state result := by
      intro state result h
      rw [h] at hstate haudit hdone
      exact ⟨hstate, haudit, hdone⟩
    have hgoesOn : ∀ next, auditFrame y = { y with audit := ⟨some ⟨p.enabled, some next, true⟩, y.audit.result⟩ } →
        goesOn next := by
      intro next h
      rw [h] at hstate haudit hdone
      refine ⟨hstate.trans ?_, haudit.trans ?_, hdone.trans hyevent⟩
      · rw [← hauditing, ← hytab]
      · rw [← hyaudit]
    refine ⟨fun hn => hcompletes _ _ (auditFrame_empty hyp hn), fun check hn => ⟨fun hrun => ?_, fun hrun => ⟨?_, ?_⟩⟩⟩
    · exact hgoesOn _ (auditFrame_begins hyp hn hrun)
    · intro failure hfail
      exact hcompletes _ _ (auditFrame_fails hyp hn hrun (hcheck ▸ hfail))
    · intro hpass
      have hpass' : runCheck y check = none := hcheck ▸ hpass
      exact ⟨fun d hcd hd hm hbetween =>
          hgoesOn _ (auditFrame_continues hyp hn hrun hpass' (nextCheck_some hcd hd hm hbetween)),
        fun hnone => hcompletes _ _ (auditFrame_passes hyp hn hrun hpass' (nextCheck_none hnone))⟩

end Sys2Proof.Machine
end

section
/-! The capture request at a frame start: one in flight is lost (R108), the oldest is armed or fails (R102, R106). -/

namespace Sys2Proof.Machine

section
variable {s : State} {request : CaptureRequest} {rest : List CaptureRequest} {width height : Nat}

theorem armCapture_empty (h : s.capture.queue = []) : armCapture s = s := by
  unfold armCapture
  split
  · next hq _ => exact absurd (h.symm.trans hq) (List.cons_ne_nil _ _).symm
  · rfl

/-- A request whose source lies within the canvas is armed (R102). -/
theorem armCapture_fits (hi : s.capture.inFlight = none) (hq : s.capture.queue = request :: rest)
    (hc : s.receiver.canvas = some (width, height)) (hw : withinCanvas s.photos.directory width height request = true) :
    armCapture s = { s with capture := ⟨rest, some ⟨request, 0⟩⟩ } := by
  simp only [armCapture, hi, hq, hc, hw, if_true]

/-- A request whose source does not fails with OUT_OF_CANVAS (R102). -/
theorem armCapture_fails (hi : s.capture.inFlight = none) (hq : s.capture.queue = request :: rest)
    (hc : s.receiver.canvas = some (width, height)) (hw : withinCanvas s.photos.directory width height request = false) :
    armCapture s = failRequest { s with capture := ⟨rest, none⟩ } request .outOfCanvas := by
  simp only [armCapture, hi, hq, hc, hw, Bool.false_eq_true, if_false]

end

/-- The events raised after the request in flight is lost stand beside it. -/
theorem frameStart_raises_lost (s : State) (c : FrameCause) (b : Bool) :
    RaisesOnly [.auditDone, .takeCancelled, .takeDone, .panelChanged, .captureFailed] (failInFlight s .lost)
      (frameStart s c b) := by
  have htake : RaisesOnly [.auditDone, .takeCancelled, .takeDone, .panelChanged, .captureFailed] (failInFlight s .lost)
      (beforeTake s c) :=
    .trans (t := keepFlags (failInFlight s .lost)) (.of_eq (by simp))
      (.trans ((auditFrame_raises _).mono (by simp)) (.of_eq (by simp [beforeTake])))
  refine .trans htake (.trans (t := settleFrame s c b) ?_ ((frameStart_raises_settled s c b).mono (by simp)))
  rw [settleFrame_eq]
  exact (settleTake_raises _ _ _).mono (by simp)

/-- The state of a frame start when it comes to arm a request: the engine, the photos and the glyphs are those that losing the
request in flight has left. -/
theorem frameStart_arms {s v : State} {i : Instr} {c : FrameCause} {b : Bool} (h : Begun s i v c b) :
    ∃ w, w.capture = (failInFlight s .lost).capture ∧ w.photos.directory = (failInFlight s .lost).photos.directory ∧
      w.glyphs.slots = (failInFlight s .lost).glyphs.slots ∧ w.receiver = v.receiver ∧
      (frameStart v c b).capture = (armIfGood w c).capture ∧ (frameStart v c b).photos = (armIfGood w c).photos ∧
      (frameStart v c b).glyphs = (armIfGood w c).glyphs ∧ (frameStart v c b).lane = (armIfGood w c).lane := by
  obtain ⟨receiver, timing, changed, hv⟩ := h.eq
  obtain ⟨hcapture, hphotos, hglyphs⟩ := failInFlight_congr (v := v) (s := s) (hv ▸ rfl) (hv ▸ rfl) (hv ▸ rfl) .lost
  obtain ⟨hd, hc⟩ := settleFrame_engine v c b
  refine ⟨stepBacklight (samplePanel (beginFrame (settleFrame v c b) (frameKind c b))), ?_, ?_, ?_, ?_, ?_, ?_, ?_, ?_⟩
  · simp [hc, hcapture]
  · simp [hd, hphotos]
  · simp [settleFrame_slots, hglyphs]
  · simp
  all_goals
    rw [frameStart_eq]
    simp [beforeLines]

/-- Settles O43: the request in flight fails as `StripFailed` and `GlyphFailed` say, then a good header arms the oldest. -/
theorem goodHeadersArmTheOldestRequest : Obligations.GoodHeadersArmTheOldestRequest := by
  unfold Obligations.GoodHeadersArmTheOldestRequest
  intro s i hr hi
  obtain ⟨v, c, b, hbegun, hexec⟩ := exec_beginsFrame hr hi
  obtain ⟨receiver, timing, changed, hv⟩ := hbegun.eq
  have hvq : v.intake = s.intake := hv ▸ rfl
  have hvc : v.capture = s.capture := hv ▸ rfl
  obtain ⟨w, hwc, hwd, hws, hwr, huc, hup, hug, hul⟩ := frameStart_arms hbegun
  have hidle : w.capture.inFlight = none := by rw [hwc, failInFlight_inFlight]
  have hlost : (failInFlight v .lost).lane.events.captureFailed = true →
      (frameStart v c b).lane.events.captureFailed = true := (frameStart_raises_lost v c b .captureFailed).1
  refine ⟨frameStart v c b, _, (failInFlight s .lost).capture.queue, (failInFlight s .lost).photos.directory,
    (failInFlight s .lost).glyphs.slots, hexec, process_drains _, ?_, ?_, ?_, ?_, ?_, ?_⟩
  · rw [(frameStart_frame v _ _).2.2.2.1, hvq]
  · intro h
    rw [failInFlight_idle h]
    exact ⟨rfl, rfl, rfl⟩
  · intro id x y row rows n h
    have hfail := failInFlight_strip h .lost
    refine ⟨⟨by rw [hfail.capture], hfail.record⟩, by rw [hfail.glyphs], hlost ?_⟩
    exact (failInFlight_strip (s := v) (hvc.symm ▸ h) .lost).raised
  · intro font slot x y w' h n hf
    have hfail := failInFlight_glyph hf .lost
    refine ⟨by rw [hfail.capture], by rw [hfail.photos], by rw [hfail.glyphs], hlost ?_⟩
    exact (failInFlight_glyph (s := v) (hvc.symm ▸ hf) .lost).raised
  · intro h
    have harm : armIfGood w c = w := by
      cases hbegun with
      | good line header timing changed hstream hparse =>
        obtain h | h := h
        · exact armCapture_empty ((congrArg CaptureEngine.queue hwc).trans h)
        · exact absurd (hparse.symm.trans (h line hstream)) (Option.some_ne_none _)
      | other receiver timing changed standalone cause hno hcause =>
        unfold armIfGood
        split
        · next n => exact absurd rfl (hcause n)
        · rfl
    rw [huc, hup, hug, harm]
    refine ⟨?_, hwd, hws⟩
    rw [hwc, ← failInFlight_inFlight s .lost]
  · intro line header request rest hstream hparse hqueue
    have hcanvas : w.receiver.canvas = some (header.width, header.height) ∧ armIfGood w c = armCapture w := by
      cases hbegun with
      | good line' header' timing changed hstream' hparse' =>
        obtain rfl : line' = line := by simpa using hstream'.symm.trans hstream
        obtain rfl := Option.some.inj (hparse'.symm.trans hparse)
        exact ⟨by rw [hwr]; rfl, rfl⟩
      | other receiver timing changed standalone cause hno hcause =>
        exact absurd (hparse.symm.trans (hno line hstream)) (Option.some_ne_none _)
    obtain ⟨hcanvas, harm⟩ := hcanvas
    have hwq : w.capture.queue = request :: rest := (congrArg CaptureEngine.queue hwc).trans hqueue
    rw [harm] at huc hup hug hul
    have hfits := armCapture_fits hidle hwq hcanvas
    have hfails := armCapture_fails hidle hwq hcanvas
    refine ⟨?_, ?_⟩
    · rintro id x y row rows r rfl hr
      have hwithin : withinCanvas w.photos.directory header.width header.height (.strip id x y row rows) =
          (decide (x + r.w ≤ header.width) && decide (y + rows ≤ header.height)) := by
        simp only [withinCanvas, hwd, hr]
      have hfail := failRequest_strip (s := { w with capture := ⟨rest, none⟩ }) rfl id x y row rows .outOfCanvas
      rw [hwithin] at hfits hfails
      refine ⟨?_, fun hx hy => ?_, fun hout => ?_⟩
      · rw [hug, ← hws]
        cases hin : (decide (x + r.w ≤ header.width) && decide (y + rows ≤ header.height)) with
        | true => rw [hfits hin]
        | false => rw [hfails hin, hfail.glyphs]
      · rw [huc, hup, hfits (by simp only [hx, hy, decide_true, Bool.and_self])]
        exact ⟨rfl, hwd⟩
      · have hno : (decide (x + r.w ≤ header.width) && decide (y + rows ≤ header.height)) = false := by
          rw [Bool.and_eq_false_iff, decide_eq_false_iff_not, decide_eq_false_iff_not, not_le, not_le]
          exact hout
        rw [huc, hup, hul, hfails hno, hfail.capture, ← hwd]
        exact ⟨⟨rfl, hfail.record⟩, rfl, hfail.raised⟩
    · rintro font slot x y w' h rfl
      have hwithin : withinCanvas w.photos.directory header.width header.height (.glyph font slot x y w' h) =
          (decide (x + w' ≤ header.width) && decide (y + h ≤ header.height)) := rfl
      have hfail := failRequest_glyph (s := { w with capture := ⟨rest, none⟩ }) rfl font slot x y w' h .outOfCanvas
      rw [hwithin] at hfits hfails
      refine ⟨?_, fun hx hy => ?_, fun hout => ?_⟩
      · rw [hup, ← hwd]
        cases hin : (decide (x + w' ≤ header.width) && decide (y + h ≤ header.height)) with
        | true => rw [hfits hin]
        | false => rw [hfails hin, hfail.photos]
      · rw [huc, hug, hfits (by simp only [hx, hy, decide_true, Bool.and_self])]
        exact ⟨rfl, hws⟩
      · have hno : (decide (x + w' ≤ header.width) && decide (y + h ≤ header.height)) = false := by
          rw [Bool.and_eq_false_iff, decide_eq_false_iff_not, decide_eq_false_iff_not, not_le, not_le]
          exact hout
        rw [huc, hug, hul, hfails hno, hfail.capture, hfail.glyphs, ← hws]
        exact ⟨rfl, rfl, hfail.raised⟩

end Sys2Proof.Machine
end

section
/-! What a frame and a line are drawn from: the active entry (R54) and the grants of a line's budget (R128–R130). -/

namespace Sys2Proof.Machine

/-! ### The active entry -/

section
variable {minute i k : Nat} {e : SchedEntry} {l : List SchedEntry}

theorem lastStarted_eq_none (minute i : Nat) (l : List SchedEntry) :
    lastStarted minute i l = none ↔ ∀ x ∈ l, minute < x.start := by
  induction l generalizing i with
  | nil => simp [lastStarted]
  | cons x l ih =>
    rw [lastStarted, List.forall_mem_cons, ← ih (i + 1)]
    cases lastStarted minute (i + 1) l with
    | none => simp
    | some r => simp

/-- In an ascending list it is the entry with the greatest start not above the minute. -/
theorem lastStarted_eq_some (hs : List.Pairwise (fun a b => a.start < b.start) l)
    (h : lastStarted minute i l = some (k, e)) :
    ∃ j, k = i + j ∧ l[j]? = some e ∧ e.start ≤ minute ∧ ∀ x ∈ l, x.start ≤ minute → x.start ≤ e.start := by
  induction l generalizing i with
  | nil => cases h
  | cons x l ih =>
    obtain ⟨hx, hs⟩ := List.pairwise_cons.1 hs
    rw [lastStarted] at h
    cases hr : lastStarted minute (i + 1) l with
    | some r =>
      obtain rfl : r = (k, e) := by simpa [hr] using h
      obtain ⟨j, rfl, hj, hle, hmax⟩ := ih hs hr
      refine ⟨j + 1, by omega, hj, hle, List.forall_mem_cons.2 ⟨fun _ => ?_, hmax⟩⟩
      exact (hx e (List.mem_of_getElem? hj)).le
    | none =>
      have hlater := (lastStarted_eq_none minute (i + 1) l).1 hr
      simp only [hr] at h
      split at h
      · next hle =>
        obtain ⟨rfl, rfl⟩ := Prod.mk.inj (Option.some.inj h)
        exact ⟨0, rfl, rfl, hle, List.forall_mem_cons.2 ⟨fun _ => le_rfl, fun y hy hym =>
          absurd hym (not_le.2 (hlater y hy))⟩⟩
      · cases h

theorem lastEntry_eq_none (i : Nat) (l : List SchedEntry) : lastEntry i l = none ↔ l = [] := by
  induction l generalizing i with
  | nil => simp [lastEntry]
  | cons x l ih =>
    cases l with
    | nil => simp [lastEntry]
    | cons y l => simpa [lastEntry] using ih (i + 1)

theorem lastEntry_eq_some (h : lastEntry i l = some (k, e)) : ∃ j, k = i + j ∧ l[j]? = some e ∧ j + 1 = l.length := by
  induction l generalizing i with
  | nil => cases h
  | cons x l ih =>
    cases l with
    | nil =>
      obtain ⟨rfl, rfl⟩ := Prod.mk.inj (Option.some.inj h)
      exact ⟨0, rfl, rfl, rfl⟩
    | cons y l =>
      obtain ⟨j, rfl, hj, hlen⟩ := ih (i := i + 1) h
      exact ⟨j + 1, by omega, hj, by rw [List.length_cons, hlen]⟩

end

/-- Settles O52: the latest entry that has started, else the last of the list. -/
theorem activeEntryIsTheLatestStarted : Obligations.ActiveEntryIsTheLatestStarted := by
  unfold Obligations.ActiveEntryIsTheLatestStarted
  intro valid minute l hs
  cases valid with
  | false => simp [activeEntry]
  | true =>
    simp only [activeEntry, if_true]
    cases hr : lastStarted minute 0 l with
    | some r =>
      refine ⟨⟨fun h => absurd h (Option.some_ne_none _), ?_⟩, fun i e he => ?_⟩
      · rintro (h | rfl)
        · cases h
        · cases hr
      · obtain rfl := Option.some.inj he
        obtain ⟨j, rfl, hj, hle, hmax⟩ := lastStarted_eq_some hs hr
        exact ⟨by rwa [Nat.zero_add], .inl ⟨hle, hmax⟩⟩
    | none =>
      refine ⟨by simpa using lastEntry_eq_none 0 l, fun i e he => ?_⟩
      obtain ⟨j, rfl, hj, hlen⟩ := lastEntry_eq_some he
      rw [Nat.zero_add]
      exact ⟨hj, .inr ⟨(lastStarted_eq_none minute 0 l).1 hr, hlen⟩⟩

/-! ### The grants of a line -/

/-- What the granted tiles of a list ask in all. -/
def grantedDemand (directory : Table PhotoRec) (n : Nat) (g : List (TileEntry × Bool)) : Nat :=
  ((g.filter fun e => !e.2).map fun e => demandOn directory e.1 n).sum

section
variable (directory : Table PhotoRec) (n : Nat)

theorem grantedDemand_cons (e : TileEntry) (degraded : Bool) (g : List (TileEntry × Bool)) :
    grantedDemand directory n ((e, degraded) :: g) =
      (if degraded then 0 else demandOn directory e n) + grantedDemand directory n g := by
  cases degraded <;> simp [grantedDemand]

theorem grantTiles_map_fst (budget : Nat) (l : List TileEntry) : (grantTiles directory n budget l).1.map Prod.fst = l := by
  induction l generalizing budget with
  | nil => rfl
  | cons e l ih =>
    rw [grantTiles]
    split <;> simp [ih]

/-- What is granted and what is left make the budget (R129). -/
theorem grantTiles_budget (budget : Nat) (l : List TileEntry) :
    grantedDemand directory n (grantTiles directory n budget l).1 + (grantTiles directory n budget l).2 = budget := by
  induction l generalizing budget with
  | nil => simp [grantTiles, grantedDemand]
  | cons e l ih =>
    rw [grantTiles]
    split
    · next hle =>
      have := ih (budget - demandOn directory e n)
      rw [grantedDemand_cons, if_neg Bool.false_ne_true]
      omega
    · rw [grantedDemand_cons, if_pos rfl, Nat.zero_add]
      exact ih budget

/-- A tile is degraded exactly where its demand exceeds what the grants before it leave (R129, R130). -/
theorem grantTiles_degraded (budget : Nat) (l : List TileEntry) {pre post : List (TileEntry × Bool)} {e : TileEntry}
    {degraded : Bool} (h : (grantTiles directory n budget l).1 = pre ++ (e, degraded) :: post) :
    degraded = true ↔ budget < grantedDemand directory n pre + demandOn directory e n := by
  induction l generalizing budget pre with
  | nil =>
    rw [grantTiles] at h
    exact absurd h.symm (List.append_ne_nil_of_right_ne_nil _ (List.cons_ne_nil _ _))
  | cons x l ih =>
    have hzero : grantedDemand directory n [] = 0 := rfl
    rw [grantTiles] at h
    split at h
    · next hle =>
      cases pre with
      | nil =>
        obtain ⟨h, -⟩ := List.cons.inj h
        obtain ⟨rfl, rfl⟩ := Prod.mk.inj h
        rw [hzero]
        exact ⟨fun h => absurd h Bool.false_ne_true, fun h => by omega⟩
      | cons y pre =>
        obtain ⟨rfl, htail⟩ := List.cons.inj h
        rw [ih _ htail, grantedDemand_cons, if_neg Bool.false_ne_true]
        omega
    · next hle =>
      cases pre with
      | nil =>
        obtain ⟨h, -⟩ := List.cons.inj h
        obtain ⟨rfl, rfl⟩ := Prod.mk.inj h
        rw [hzero]
        exact ⟨fun _ => by omega, fun _ => rfl⟩
      | cons y pre =>
        obtain ⟨rfl, htail⟩ := List.cons.inj h
        rw [ih _ htail, grantedDemand_cons, if_pos rfl, Nat.zero_add]

end

/-! ### The demand of a tile -/

/-- The columns of a screen from one to another. -/
theorem length_filter_range (vw : Nat) (a b : Int) (p : Nat → Bool) (hp : ∀ x : Nat, p x = true ↔ a ≤ x ∧ (x : Int) < b) :
    ((List.range vw).filter p).length = (min (vw : Int) b - max 0 a).toNat := by
  induction vw with
  | zero => simp; omega
  | succ vw ih =>
    rw [List.range_succ, List.filter_append, List.length_append, ih]
    by_cases h : p vw = true
    · have := (hp vw).1 h
      rw [List.filter_singleton, h]
      simp only [cond_true, List.length_singleton]
      omega
    · have := mt (hp vw).2 h
      rw [List.filter_singleton, Bool.eq_false_iff.2 h]
      simp only [cond_false, List.length_nil]
      omega

/-- The demand of a placed photo counts the columns at which the line asks for one of its pixels (R37, R128). -/
theorem placedDemand_eq (t : TileRec) (ox oy : Int) (r : PhotoRec) (vw vh n : Nat) :
    placedDemand (clipRect t vw vh) t ox oy r.w r.h n = pixelsAsked t ox oy r vw vh n := by
  unfold placedDemand pixelsAsked clipRect
  by_cases hn : (n < vh ∧ t.y ≤ n ∧ (n : Int) < t.y + t.h) ∧ (t.y + oy ≤ n ∧ (n : Int) < t.y + oy + r.h)
  · rw [length_filter_range vw (max t.x (t.x + ox)) (min (t.x + t.w) (t.x + ox + r.w))]
    · rw [if_pos (by simp only; omega)]
      simp only
      omega
    · intro x
      rw [decide_eq_true_iff]
      omega
  · rw [List.filter_eq_nil_iff.2, if_neg (by simp only; omega)]
    · rfl
    · intro x _ hx
      rw [decide_eq_true_iff] at hx
      omega

theorem demandOn_hidden {directory : Table PhotoRec} {e : TileEntry} {n : Nat}
    (h : ¬ (e.shown = true ∧ e.blinkVisible = true)) : demandOn directory e n = 0 := by
  have hoff : activeOn e n = false := by
    rw [Bool.eq_false_iff]
    intro hon
    simp only [activeOn, Bool.and_eq_true] at hon
    exact h hon.1.1.1
  rw [demandOn, hoff]
  rfl

/-- A visible tile asks for its photo's columns whether or not its clipped rect reaches the line: outside it there are none. -/
theorem demandOn_visible {directory : Table PhotoRec} {e : TileEntry} {n id : Nat} {own : Option Nat} {ox oy : Int}
    (h : e.shown = true ∧ e.blinkVisible = true) (hc : e.content = .photo id) (hb : e.tile.body = .photo own ox oy) :
    demandOn directory e n =
      match tget directory id with
      | some r => placedDemand e.clip e.tile ox oy r.w r.h n
      | none => 0 := by
  simp only [demandOn, hc, hb]
  by_cases hon : activeOn e n = true
  · exact if_pos hon
  · refine (if_neg hon).trans ?_
    split
    · next r _ =>
      have hclip : ¬ (e.clip.x0 < e.clip.x1 ∧ e.clip.y0 ≤ n ∧ n < e.clip.y1) := fun hin => hon <| by
        simp only [activeOn, h, hin, decide_true, Bool.and_self]
      unfold placedDemand
      split
      · exact (Int.toNat_of_nonpos (by omega)).symm
      · rfl
    · rfl

/-- Settles O60: the grants by induction along the list, the demand by the columns of the screen. -/
theorem lineGrantsStayWithinTheBudget : Obligations.LineGrantsStayWithinTheBudget := by
  unfold Obligations.LineGrantsStayWithinTheBudget
  refine ⟨fun directory n budget l => ⟨grantTiles_map_fst .., grantTiles_budget .., fun pre e degraded post h =>
    grantTiles_degraded directory n budget l h⟩, fun s f n => rfl, fun directory e n vw vh hclip => ⟨?_, ?_⟩⟩
  · rintro (h | h)
    · exact demandOn_hidden h
    · unfold demandOn
      split
      · split
        · next id _ _ _ hc _ => exact absurd hc (h id)
        · rfl
      · rfl
  · intro id own ox oy hv hc hb
    rw [demandOn_visible hv hc hb]
    refine ⟨fun hnone => by rw [hnone], fun r hr => ?_⟩
    rw [hr, hclip]
    exact placedDemand_eq e.tile ox oy r vw vh n

end Sys2Proof.Machine
end

section
/-! What the audit's checks 1, 2 and 5 test, and the first failure each reports (R34, R35, R38). -/

namespace Sys2Proof.Machine

/-! ### The first of a scan -/

theorem findSome?_first {α β : Type} {f : α → Option β} {before after : List α} {x : α} {y : β}
    (h : ∀ e ∈ before, f e = none) (hx : f x = some y) : (before ++ x :: after).findSome? f = some y := by
  rw [List.findSome?_append, List.findSome?_eq_none_iff.2 h, Option.none_or, List.findSome?_cons, hx]

theorem find?_first {α : Type} {p : α → Bool} {before after : List α} {x : α} (h : ∀ e ∈ before, p e = false)
    (hx : p x = true) : (before ++ x :: after).find? p = some x :=
  List.find?_eq_some_iff_append.2 ⟨hx, before, after, rfl, fun e he => by rw [h e he]; rfl⟩

/-! ### REFERENCES (R34) -/

section
variable {b : Bank} {d : Table PhotoRec} {key id : Nat} {t : TileRec} {r : ItemRec}

theorem photoFault_eq_none (page tile : Nat) :
    tileReferenceFault.photoFault d (key, t) page tile = none ↔
      ∀ p, (∃ ox oy, t.body = .photo (some p) ox oy) → (tget d p).isSome = true := by
  unfold tileReferenceFault.photoFault
  split
  · next p ox oy hb =>
    dsimp only at hb
    rw [hb]
    cases hp : tget d p <;> simp [hp]
  · next hno =>
    exact ⟨fun _ p ⟨ox, oy, hb⟩ => absurd hb (hno p ox oy), fun _ => rfl⟩

theorem photoFault_some {p : Nat} (page tile : Nat) (hb : ∃ ox oy, t.body = .photo (some p) ox oy)
    (hp : ¬ (tget d p).isSome = true) :
    tileReferenceFault.photoFault d (key, t) page tile = some (.tile page tile p) := by
  obtain ⟨ox, oy, hb⟩ := hb
  have hnone : tget d p = none := Option.not_isSome_iff_eq_none.1 hp
  simp only [tileReferenceFault.photoFault, hb, hnone, Option.isNone_none, if_true]

/-- A tile whose item resolves is tested for its own photo. -/
theorem tileReferenceFault_resolved (h : ∀ i, t.item = some i → (tget b.items i).isSome = true) :
    tileReferenceFault b d (key, t) = tileReferenceFault.photoFault d (key, t) (key / 48) (key % 48) := by
  unfold tileReferenceFault
  split
  · next i hi =>
    obtain ⟨x, hx⟩ := Option.isSome_iff_exists.1 (h i hi)
    simp only [hx, Option.isNone_some, Bool.false_eq_true, if_false]
    rfl
  · rfl

theorem tileReferenceFault_unresolved {i : Nat} (hi : t.item = some i) (h : ¬ (tget b.items i).isSome = true) :
    tileReferenceFault b d (key, t) = some (.tile (key / 48) (key % 48) i) := by
  have hnone : tget b.items i = none := Option.not_isSome_iff_eq_none.1 h
  simp only [tileReferenceFault, hi, hnone, Option.isNone_none, if_true]
  rfl

theorem tileReferenceFault_eq_none :
    tileReferenceFault b d (key, t) = none ↔
      (∀ i, t.item = some i → (tget b.items i).isSome = true) ∧
      ∀ p, (∃ ox oy, t.body = .photo (some p) ox oy) → (tget d p).isSome = true := by
  by_cases h : ∀ i, t.item = some i → (tget b.items i).isSome = true
  · rw [tileReferenceFault_resolved h, photoFault_eq_none]
    exact ⟨fun hp => ⟨h, hp⟩, fun hp => hp.2⟩
  · refine ⟨fun hnone => ?_, fun hp => absurd hp.1 h⟩
    obtain ⟨i, hi⟩ := not_forall.1 h
    obtain ⟨hi, hres⟩ := Classical.not_imp.1 hi
    rw [tileReferenceFault_unresolved hi hres] at hnone
    cases hnone

theorem isSimple_iff (b : Bank) (id : Nat) :
    isSimple b id = true ↔ ∃ prices photo, tget b.items id = some ⟨.simple prices, photo⟩ := by
  unfold isSimple
  split
  · next prices photo h => exact ⟨fun _ => ⟨prices, photo, h⟩, fun _ => rfl⟩
  · next hno => exact ⟨fun h => absurd h Bool.false_ne_true, fun ⟨prices, photo, h⟩ => absurd h (hno prices photo)⟩

/-- The components of an item's record. -/
def componentsOf (r : ItemRec) : List Component :=
  match r.body with
  | .combo components _ => components
  | .simple _ => []

theorem itemReferenceFault_eq :
    itemReferenceFault b d (id, r) =
      match (componentsOf r).find? fun c => !isSimple b c.item with
      | some c => some (.item id c.item)
      | none =>
        match r.photo with
        | some p => if (tget d p).isNone then some (.item id p) else none
        | none => none := rfl

/-- The components of an item resolve where each is SIMPLE. -/
theorem components_find?_eq_none :
    ((componentsOf r).find? fun c => !isSimple b c.item) = none ↔
      ∀ c ∈ componentsOf r, ∃ prices photo, tget b.items c.item = some ⟨.simple prices, photo⟩ := by
  rw [List.find?_eq_none]
  refine forall₂_congr fun c _ => ?_
  rw [← isSimple_iff, Bool.not_eq_true', Bool.not_eq_false]

theorem itemReferenceFault_component {earlier later : List Component} {c : Component}
    (hsplit : componentsOf r = earlier ++ c :: later)
    (h : ∀ e ∈ earlier, ∃ prices photo, tget b.items e.item = some ⟨.simple prices, photo⟩)
    (hc : ¬ ∃ prices photo, tget b.items c.item = some ⟨.simple prices, photo⟩) :
    itemReferenceFault b d (id, r) = some (.item id c.item) := by
  have hfind : ((componentsOf r).find? fun c => !isSimple b c.item) = some c := by
    rw [hsplit]
    refine find?_first (fun e he => ?_) ?_
    · rw [(isSimple_iff b e.item).2 (h e he)]; rfl
    · rw [Bool.not_eq_true', Bool.eq_false_iff, Ne, isSimple_iff]
      exact hc
  rw [itemReferenceFault_eq, hfind]

theorem itemReferenceFault_photo {p : Nat}
    (h : ∀ c ∈ componentsOf r, ∃ prices photo, tget b.items c.item = some ⟨.simple prices, photo⟩)
    (hr : r.photo = some p) (hp : ¬ (tget d p).isSome = true) :
    itemReferenceFault b d (id, r) = some (.item id p) := by
  have hnone : tget d p = none := Option.not_isSome_iff_eq_none.1 hp
  simp only [itemReferenceFault_eq, components_find?_eq_none.2 h, hr, hnone, Option.isNone_none, if_true]

theorem itemReferenceFault_eq_none :
    itemReferenceFault b d (id, r) = none ↔
      (∀ c ∈ componentsOf r, ∃ prices photo, tget b.items c.item = some ⟨.simple prices, photo⟩) ∧
      ∀ p, r.photo = some p → (tget d p).isSome = true := by
  rw [itemReferenceFault_eq, ← components_find?_eq_none]
  cases (componentsOf r).find? fun c => !isSimple b c.item with
  | some c => simp
  | none =>
    cases r.photo with
    | none => simp
    | some p => simp [Option.isSome_iff_ne_none]

end

/-- REFERENCES scans the tiles, then the items. -/
theorem checkReferences_tile {b : Bank} {d : Table PhotoRec} {x : AuditFailure}
    (h : b.tiles.findSome? (tileReferenceFault b d) = some x) : checkReferences b d = some x := by
  simp only [checkReferences, h]

theorem checkReferences_items {b : Bank} {d : Table PhotoRec} (h : ∀ e ∈ b.tiles, tileReferenceFault b d e = none) :
    checkReferences b d = b.items.findSome? (itemReferenceFault b d) := by
  simp only [checkReferences, List.findSome?_eq_none_iff.2 h]

theorem checkReferences_eq_none (b : Bank) (d : Table PhotoRec) :
    checkReferences b d = none ↔
      (∀ e ∈ b.tiles, tileReferenceFault b d e = none) ∧ ∀ e ∈ b.items, itemReferenceFault b d e = none := by
  rw [← List.findSome?_eq_none_iff, ← List.findSome?_eq_none_iff, checkReferences]
  cases b.tiles.findSome? (tileReferenceFault b d) <;> simp

/-! ### PHOTOS_READY (R35) -/

theorem photoReady_iff (d : Table PhotoRec) (id : Nat) :
    photoReady d id = true ↔ ∃ r, tget d id = some r ∧ r.state = .ready := by
  unfold photoReady
  cases tget d id <;> simp

/-- The own photo of a tile, if it names one. -/
def ownPhoto (t : TileRec) : Option Nat :=
  match t.body with
  | .photo own _ _ => own
  | _ => none

theorem ownPhoto_eq_some (t : TileRec) (p : Nat) : ownPhoto t = some p ↔ ∃ ox oy, t.body = .photo (some p) ox oy := by
  unfold ownPhoto
  split
  · next own ox oy h => simp [h]
  · next hno => exact ⟨fun h => absurd h.symm (Option.some_ne_none p), fun ⟨ox, oy, h⟩ => absurd h (hno _ ox oy)⟩

theorem namedPhotos_eq (b : Bank) :
    namedPhotos b = (b.tiles.filterMap fun e => ownPhoto e.2) ++ b.items.filterMap fun e => e.2.photo := rfl

/-- The photos named before a point of a scan are ready where each record's is. -/
theorem filterMap_all {α : Type} {f : α → Option Nat} {p : Nat → Prop} {l : List α} :
    (∀ id ∈ l.filterMap f, p id) ↔ ∀ e ∈ l, ∀ id, f e = some id → p id := by
  simp only [List.mem_filterMap]
  exact ⟨fun h e he id hid => h id ⟨e, he, hid⟩, fun h id ⟨e, he, hid⟩ => h e he id hid⟩

/-- The first photo named that is not ready is the failure. -/
theorem checkPhotosReady_first {b : Bank} {d : Table PhotoRec} {before after : List Nat} {p : Nat}
    (hs : namedPhotos b = before ++ p :: after) (h : ∀ id ∈ before, ∃ r, tget d id = some r ∧ r.state = .ready)
    (hp : ¬ ∃ r, tget d p = some r ∧ r.state = .ready) : checkPhotosReady b d = some (.photo p) := by
  unfold checkPhotosReady
  rw [hs, find?_first (x := p) (fun e he => by rw [(photoReady_iff d e).2 (h e he)]; rfl)]
  · rfl
  · rw [Bool.not_eq_true', Bool.eq_false_iff, Ne, photoReady_iff]
    exact hp

theorem checkPhotosReady_eq_none (b : Bank) (d : Table PhotoRec) :
    checkPhotosReady b d = none ↔ ∀ id ∈ namedPhotos b, ∃ r, tget d id = some r ∧ r.state = .ready := by
  unfold checkPhotosReady
  rw [Option.map_eq_none_iff, List.find?_eq_none]
  refine forall₂_congr fun id _ => ?_
  rw [← photoReady_iff, Bool.not_eq_true', Bool.not_eq_false]

/-! ### SCHEDULE (R38) -/

/-- A key that stands in a table reads. -/
theorem exists_tget_of_mem {α : Type} {t : Table α} {e : Nat × α} (h : e ∈ t) : ∃ a, tget t e.1 = some a := by
  induction t with
  | nil => cases h
  | cons x t ih =>
    obtain ⟨k, v⟩ := x
    by_cases hk : k = e.1
    · exact ⟨v, by rw [tget, if_pos hk]⟩
    · obtain rfl | h := List.mem_cons.1 h
      · exact absurd rfl hk
      · obtain ⟨a, ha⟩ := ih h
        exact ⟨a, by rw [tget, if_neg hk, ha]⟩

/-- A page has tiles where a record is read under one of its keys. -/
theorem pageTiles_ne_nil (b : Bank) (page : Nat) :
    (pageTiles b page).isEmpty = false ↔ ∃ id t, id < 48 ∧ tget b.tiles (page * 48 + id) = some t := by
  have hsize : Config.tilesPerPage = 48 := rfl
  rw [List.isEmpty_eq_false_iff_exists_mem]
  unfold pageTiles
  rw [hsize]
  constructor
  · rintro ⟨x, hx⟩
    obtain ⟨e, he, hif⟩ := List.mem_filterMap.1 hx
    split at hif
    · next hpage =>
      obtain ⟨t, ht⟩ := exists_tget_of_mem he
      refine ⟨e.1 % 48, t, Nat.mod_lt _ (by omega), ?_⟩
      rw [← hpage, Nat.mul_comm, Nat.div_add_mod]
      exact ht
    · cases hif
  · rintro ⟨id, t, hid, ht⟩
    refine ⟨(id, t), List.mem_filterMap.2 ⟨_, mem_of_tget ht, ?_⟩⟩
    have hdiv : (page * 48 + id) / 48 = page := by omega
    have hmod : (page * 48 + id) % 48 = id := by omega
    rw [hdiv, hmod, if_pos rfl]

theorem firstEmptyPage_first {b : Bank} {before after : List SchedEntry} {e : SchedEntry} (i : Nat)
    (h : ∀ x ∈ before, (pageTiles b x.page).isEmpty = false) (he : (pageTiles b e.page).isEmpty = true) :
    firstEmptyPage b i (before ++ e :: after) = some (.page e.page (i + before.length)) := by
  induction before generalizing i with
  | nil => rw [List.nil_append, firstEmptyPage, he, if_pos rfl]; rfl
  | cons x before ih =>
    obtain ⟨hx, h⟩ := List.forall_mem_cons.1 h
    rw [List.cons_append, firstEmptyPage, hx, if_neg Bool.false_ne_true, ih _ h, List.length_cons]
    congr 2
    omega

theorem firstEmptyPage_eq_none (b : Bank) (i : Nat) (l : List SchedEntry) :
    firstEmptyPage b i l = none ↔ ∀ x ∈ l, (pageTiles b x.page).isEmpty = false := by
  induction l generalizing i with
  | nil => simp [firstEmptyPage]
  | cons x l ih =>
    rw [firstEmptyPage, List.forall_mem_cons]
    cases (pageTiles b x.page).isEmpty <;> simp [ih]

/-- Settles O58: each check reports the first fault of its scan. -/
theorem auditChecksNamesPhotosAndSchedule : Obligations.AuditChecksNamesPhotosAndSchedule := by
  unfold Obligations.AuditChecksNamesPhotosAndSchedule
  intro s b record ready resolves simple own components tileGood itemGood tileReady itemReady onPage
  have htile : ∀ e : Nat × TileRec, tileReferenceFault b s.photos.directory e = none ↔ tileGood e.2 :=
    fun ⟨key, t⟩ => tileReferenceFault_eq_none
  have hitem : ∀ e : Nat × ItemRec, itemReferenceFault b s.photos.directory e = none ↔ itemGood e.2 :=
    fun ⟨id, r⟩ => itemReferenceFault_eq_none
  have htiles : ∀ l : Table TileRec, (∀ id ∈ l.filterMap fun e => ownPhoto e.2, ready id) ↔ ∀ e ∈ l, tileReady e.2 := by
    intro l
    rw [filterMap_all]
    exact forall₂_congr fun e _ => forall_congr' fun p => by rw [ownPhoto_eq_some]
  have hitems : ∀ l : Table ItemRec, (∀ id ∈ l.filterMap fun e => e.2.photo, ready id) ↔ ∀ e ∈ l, itemReady e.2 :=
    fun l => filterMap_all
  have honPage : ∀ page, (pageTiles b page).isEmpty = false ↔ onPage page := pageTiles_ne_nil b
  refine ⟨?_, ?_, ?_, ?_, ?_, ?_, ?_, ?_, ?_⟩
  · refine (checkReferences_eq_none b s.photos.directory).trans (and_congr ?_ ?_)
    · exact forall₂_congr fun e _ => htile e
    · exact forall₂_congr fun e _ => hitem e
  · intro before after key t hsplit hbefore
    have hfirst : ∀ x, tileReferenceFault b s.photos.directory (key, t) = some x → runCheck s 1 = some x := fun x hx => by
      refine checkReferences_tile ?_
      change b.tiles.findSome? _ = _
      rw [hsplit]
      exact findSome?_first (fun e he => (htile e).2 (hbefore e he)) hx
    exact ⟨fun i hi hres => hfirst _ (tileReferenceFault_unresolved hi hres), fun p hres hown hrec =>
      hfirst _ ((tileReferenceFault_resolved hres).trans (photoFault_some _ _ hown hrec))⟩
  · intro before after id r htilesGood hsplit hbefore
    have hfirst : ∀ x, itemReferenceFault b s.photos.directory (id, r) = some x → runCheck s 1 = some x := fun x hx => by
      refine (checkReferences_items fun e he => (htile e).2 (htilesGood e he)).trans ?_
      rw [hsplit]
      exact findSome?_first (fun e he => (hitem e).2 (hbefore e he)) hx
    exact ⟨fun earlier later c hc he hno => hfirst _ (itemReferenceFault_component hc he hno), fun p hc hr hrec =>
      hfirst _ (itemReferenceFault_photo hc hr hrec)⟩
  · refine (checkPhotosReady_eq_none b s.photos.directory).trans ?_
    rw [namedPhotos_eq, ← htiles, ← hitems]
    exact List.forall_mem_append
  · intro before after key t p hsplit hbefore hown hready
    have hnames : namedPhotos b = (before.filterMap fun e => ownPhoto e.2) ++
        p :: ((after.filterMap fun e => ownPhoto e.2) ++ b.items.filterMap fun e => e.2.photo) := by
      rw [namedPhotos_eq, hsplit, List.filterMap_append,
        List.filterMap_cons_some (f := fun e : Nat × TileRec => ownPhoto e.2) ((ownPhoto_eq_some t p).2 hown),
        List.append_assoc]
      rfl
    exact checkPhotosReady_first hnames ((htiles before).2 hbefore) hready
  · intro before after id r p htilesReady hsplit hbefore hr hready
    have hnames : namedPhotos b =
        ((b.tiles.filterMap fun e => ownPhoto e.2) ++ before.filterMap fun e => e.2.photo) ++
          p :: after.filterMap fun e => e.2.photo := by
      rw [namedPhotos_eq, hsplit, List.filterMap_append,
        List.filterMap_cons_some (f := fun e : Nat × ItemRec => e.2.photo) hr, List.append_assoc]
    exact checkPhotosReady_first hnames
      (List.forall_mem_append.2 ⟨(htiles _).2 htilesReady, (hitems before).2 hbefore⟩) hready
  · change checkSchedule b = none ↔ _
    unfold checkSchedule
    rw [← forall₂_congr fun (x : SchedEntry) (_ : x ∈ b.schedule) => honPage x.page,
      ← firstEmptyPage_eq_none b 0 b.schedule]
    cases b.schedule <;> simp
  · intro h
    change checkSchedule b = _
    rw [checkSchedule, h]
    rfl
  · intro before after e hsplit hbefore he
    change checkSchedule b = _
    rw [checkSchedule, hsplit, if_neg (by simp), firstEmptyPage_first 0 (fun x hx => (honPage x.page).2 (hbefore x hx)),
      Nat.zero_add]
    exact Bool.eq_true_of_not_eq_false fun h => he ((honPage e.page).1 h)

end Sys2Proof.Machine
end

section
/-! The text plans of a page's PRICE tiles (R78–R81) and the frame tile list (R117–R121, R136), each read by tile id. -/

namespace Sys2Proof.Machine

/-! ### The records of one page -/

/-- What a page's records give, read by tile id, is what the record under the tile's key gives. -/
theorem tget_page {β : Type} {t : Table TileRec} (hs : sortedKeys t = true) (page : Nat) {id : Nat} (hid : id < 48)
    (f : TileRec → Option β) :
    tget (t.filterMap fun e => if e.1 / 48 = page then (f e.2).map fun x => (e.1 % 48, x) else none) id =
      (tget t (page * 48 + id)).bind f := by
  induction t with
  | nil => rfl
  | cons e t ih =>
    obtain ⟨k, v⟩ := e
    obtain ⟨hk, hs⟩ := (sortedKeys_cons k v t).1 hs
    have ih := ih hs
    by_cases heq : k = page * 48 + id
    · have hrest : tget t (page * 48 + id) = none := by
        cases hg : tget t (page * 48 + id) with
        | none => rfl
        | some a =>
          have := hk _ (mem_of_tget hg)
          simp only at this
          omega
      rw [hrest] at ih
      have hpage : k / 48 = page := by omega
      have hmod : k % 48 = id := by omega
      rw [tget, if_pos heq, Option.bind_some]
      cases hf : f v with
      | none =>
        rw [List.filterMap_cons_none (by simp [hf]), ih]
        rfl
      | some x =>
        rw [List.filterMap_cons_some (b := (id, x)) (by simp [hpage, hf, hmod]), tget, if_pos rfl]
    · rw [tget, if_neg heq, ← ih]
      by_cases hpage : k / 48 = page
      · have hmod : k % 48 ≠ id := by omega
        cases hf : f v with
        | none => rw [List.filterMap_cons_none (by simp [hf])]
        | some x => rw [List.filterMap_cons_some (b := (k % 48, x)) (by simp [hpage, hf]), tget, if_neg hmod]
      · rw [List.filterMap_cons_none (by simp [hpage])]

/-! ### Text plans -/

section
variable {slots : List GlyphSlot} {font g w : Nat}

/-- A glyph whose slot is LOADED, of a width. -/
def HasWidth (slots : List GlyphSlot) (font g w : Nat) : Prop :=
  ∃ h bitmap, slots[font * 12 + g]? = some (.loaded w h bitmap)

theorem glyphLoaded_iff : (slots.map slotLoaded).getD (slotIndex font g) false = true ↔ ∃ w, HasWidth slots font g w := by
  rw [List.getD_eq_getElem?_getD, List.getElem?_map]
  unfold HasWidth slotIndex
  cases hs : slots[font * 12 + g]? with
  | none => simp
  | some x => cases x <;> simp [slotLoaded]

theorem glyphWidth_eq (h : HasWidth slots font g w) : slotWidth (slotOf slots font g) = w := by
  obtain ⟨height, bitmap, h⟩ := h
  rw [slotOf, slotIndex, List.getD_eq_getElem?_getD, h]
  rfl

/-- Glyphs that all have a width are loaded, and their widths are those. -/
theorem glyphs_widths {glyphs widths : List Nat} (h : List.Forall₂ (HasWidth slots font) glyphs widths) :
    (glyphs.any fun g => !(slots.map slotLoaded).getD (slotIndex font g) false) = false ∧
    (glyphs.map fun g => slotWidth (slotOf slots font g)) = widths := by
  induction h with
  | nil => exact ⟨rfl, rfl⟩
  | @cons g w glyphs widths hg _ ih =>
    rw [List.any_cons, List.map_cons, ih.1, ih.2, glyphWidth_eq hg, glyphLoaded_iff.2 ⟨w, hg⟩]
    exact ⟨rfl, rfl⟩

end

/-- The plan of one record, if it is a PRICE tile. -/
def recordPlan (cache : Table PriceEntry) (slots : List GlyphSlot) (t : TileRec) : Option TextPlan :=
  match t.body with
  | .price style =>
    some (textPlan (fun g => (slots.map slotLoaded).getD (slotIndex style.font g) false)
      (fun g => slotWidth (slotOf slots style.font g)) (t.item.bind (tget cache)) style t.w)
  | _ => none

theorem tget_textPlans {b : Bank} (hs : sortedKeys b.tiles = true) (page : Nat) {id : Nat} (hid : id < 48)
    (cache : Table PriceEntry) (slots : List GlyphSlot) :
    tget (textPlans b page cache (slots.map slotLoaded) slots) id =
      (tget b.tiles (page * 48 + id)).bind (recordPlan cache slots) := by
  rw [← tget_page hs page hid]
  congr 1
  refine List.filterMap_congr fun e _ => ?_
  unfold recordPlan
  change (if e.1 / 48 = page then _ else none) = _
  split
  · cases e.2.body <;> rfl
  · rfl

theorem recordPlan_price {cache : Table PriceEntry} {slots : List GlyphSlot} {t : TileRec} {style : PriceStyle}
    (hb : t.body = .price style) :
    recordPlan cache slots t =
      some (textPlan (fun g => (slots.map slotLoaded).getD (slotIndex style.font g) false)
        (fun g => slotWidth (slotOf slots style.font g)) (t.item.bind (tget cache)) style t.w) := by
  simp only [recordPlan, hb]

theorem recordPlan_other {cache : Table PriceEntry} {slots : List GlyphSlot} {t : TileRec}
    (h : ∀ style, t.body ≠ .price style) : recordPlan cache slots t = none := by
  unfold recordPlan
  split
  · next style hb => exact absurd hb (h style)
  · rfl

/-- Settles O56, test by test. -/
theorem textPlansFollowTheOrderOfTests : Obligations.TextPlansFollowTheOrderOfTests := by
  unfold Obligations.TextPlansFollowTheOrderOfTests
  intro b page id cache slots hs hid plan tile
  have hplan : plan = tile.bind (recordPlan cache slots) := tget_textPlans hs page hid cache slots
  refine ⟨fun hno => ?_, ?_⟩
  · rw [hplan]
    cases ht : tile with
    | none => rfl
    | some t => exact recordPlan_other (hno t · ht)
  · intro t style ht hb entry hasWidth
    have hentry : ∀ e, entry e → t.item.bind (tget cache) = some e := fun e ⟨item, hi, he⟩ => by rw [hi]; exact he
    rw [ht, Option.bind_some, recordPlan_price hb] at hplan
    rw [hplan]
    refine ⟨fun hno => ?_, fun he => by rw [hentry _ he]; rfl, fun v he => by rw [hentry _ he]; rfl, fun v glyphs he => ?_⟩
    · have hnone : t.item.bind (tget cache) = none := by
        cases hi : t.item with
        | none => rfl
        | some item =>
          cases hc : tget cache item with
          | none => exact hc
          | some e => exact absurd ⟨item, hi, hc⟩ (hno e)
      rw [hnone]
      rfl
    · rw [hentry _ he]
      refine ⟨fun ⟨g, hg, hw⟩ => ?_, fun widths hwidths => ?_⟩
      · have hany : (glyphs.any fun g => !(slots.map slotLoaded).getD (slotIndex style.font g) false) = true :=
          List.any_eq_true.2 ⟨g, hg, by
            rw [Bool.not_eq_true', Bool.eq_false_iff, Ne, glyphLoaded_iff]
            exact fun ⟨w, h⟩ => hw w h⟩
        simp only [textPlan, hany, if_true]
      · obtain ⟨hany, hmap⟩ := glyphs_widths (slots := slots) (font := style.font) hwidths
        simp only [textPlan, hany, Bool.false_eq_true, if_false, textWidth, hmap]
        refine ⟨fun hw => by rw [if_pos hw], fun hw => ?_⟩
        rw [if_neg (not_lt.2 hw)]
        refine ⟨_, rfl, fun ha => ?_, fun ha => ?_, fun ha => ?_⟩
        · simp only [startColumn, ha]
        · simp only [startColumn, ha]
          omega
        · simp only [startColumn, ha]

end Sys2Proof.Machine
end

section
/-! The frame tile list (R117): its order (R14), its entries' clip, shown, dimmed and blink (R118, R119, R121), and the content and
flag each record calls for (R120, R136). -/

namespace Sys2Proof.Machine

/-! ### Draw order (R14) -/

/-- Whether one tile is drawn before another: ascending z, then tile id. -/
def DrawnBefore (a b : Nat × TileRec) : Prop := a.2.z.toNat < b.2.z.toNat ∨ (a.2.z = b.2.z ∧ a.1 < b.1)

theorem mem_insertByZ {e x : Nat × TileRec} {l : Table TileRec} : x ∈ insertByZ e l ↔ x = e ∨ x ∈ l := by
  induction l with
  | nil => simp [insertByZ]
  | cons f l ih =>
    rw [insertByZ]
    split
    · simp
    · rw [List.mem_cons, ih, List.mem_cons]
      tauto

/-- A tile of a lower id than every tile of a list in draw order is placed in draw order. -/
theorem insertByZ_pairwise {e : Nat × TileRec} {l : Table TileRec} (he : ∀ f ∈ l, e.1 < f.1)
    (hl : List.Pairwise DrawnBefore l) : List.Pairwise DrawnBefore (insertByZ e l) := by
  induction l with
  | nil => exact List.pairwise_singleton _ _
  | cons f l ih =>
    obtain ⟨hf, hl'⟩ := List.pairwise_cons.1 hl
    obtain ⟨hef, he⟩ := List.forall_mem_cons.1 he
    rw [insertByZ]
    split
    · next hz =>
      refine List.pairwise_cons.2 ⟨List.forall_mem_cons.2 ⟨?_, fun x hx => ?_⟩, hl⟩
      · obtain h | h := Nat.lt_or_eq_of_le hz
        · exact .inl h
        · exact .inr ⟨BitVec.eq_of_toNat_eq h, hef⟩
      · have hex := he x hx
        obtain h | ⟨h, -⟩ := hf x hx
        · exact .inl (by omega)
        · rw [h] at hz
          obtain h' | h' := Nat.lt_or_eq_of_le hz
          · exact .inl h'
          · exact .inr ⟨BitVec.eq_of_toNat_eq h', hex⟩
    · next hz =>
      refine List.pairwise_cons.2 ⟨fun x hx => ?_, ih he hl'⟩
      obtain rfl | hx := mem_insertByZ.1 hx
      · exact .inl (by omega)
      · exact hf x hx

theorem mem_drawOrder {x : Nat × TileRec} {l : Table TileRec} : x ∈ drawOrder l ↔ x ∈ l := by
  induction l with
  | nil => exact Iff.rfl
  | cons e l ih =>
    change x ∈ insertByZ e (drawOrder l) ↔ _
    rw [mem_insertByZ, ih, List.mem_cons]

theorem drawOrder_pairwise {l : Table TileRec} (h : List.Pairwise (fun a b => a.1 < b.1) l) :
    List.Pairwise DrawnBefore (drawOrder l) := by
  induction l with
  | nil => exact .nil
  | cons e l ih =>
    obtain ⟨he, h⟩ := List.pairwise_cons.1 h
    exact insertByZ_pairwise (fun f hf => he f (mem_drawOrder.1 hf)) (ih h)

/-! ### The tiles of a page -/

theorem sortedKeys_pairwise {α : Type} {t : Table α} (h : sortedKeys t = true) :
    List.Pairwise (fun a b => a.1 < b.1) t := by
  induction t with
  | nil => exact .nil
  | cons e t ih =>
    obtain ⟨k, v⟩ := e
    obtain ⟨hk, h⟩ := (sortedKeys_cons k v t).1 h
    exact List.pairwise_cons.2 ⟨hk, ih h⟩

/-- The tiles of a page stand in ascending tile id. -/
theorem pageTiles_pairwise {b : Bank} (hs : sortedKeys b.tiles = true) (page : Nat) :
    List.Pairwise (fun a b => a.1 < b.1) (pageTiles b page) := by
  have hsize : Config.tilesPerPage = 48 := rfl
  unfold pageTiles
  rw [hsize]
  refine List.pairwise_filterMap.2 ((sortedKeys_pairwise hs).imp fun {x y} hxy a ha c hc => ?_)
  split at ha
  · next hx =>
    split at hc
    · next hy =>
      obtain rfl := Option.some.inj ha
      obtain rfl := Option.some.inj hc
      simp only
      omega
    · cases hc
  · cases ha

theorem mem_pageTiles {b : Bank} (hs : sortedKeys b.tiles = true) (page id : Nat) (t : TileRec) :
    (id, t) ∈ pageTiles b page ↔ id < 48 ∧ tget b.tiles (page * 48 + id) = some t := by
  have hsize : Config.tilesPerPage = 48 := rfl
  unfold pageTiles
  rw [hsize, List.mem_filterMap]
  constructor
  · rintro ⟨⟨k, v⟩, he, hif⟩
    split at hif
    · next hpage =>
      obtain ⟨rfl, rfl⟩ := Prod.mk.inj (Option.some.inj hif)
      refine ⟨Nat.mod_lt _ (by omega), ?_⟩
      rw [← hpage, Nat.mul_comm, Nat.div_add_mod]
      exact tget_of_mem hs he
    · cases hif
  · rintro ⟨hid, ht⟩
    have hdiv : (page * 48 + id) / 48 = page := by omega
    have hmod : (page * 48 + id) % 48 = id := by omega
    exact ⟨_, mem_of_tget ht, by rw [hdiv, hmod, if_pos rfl]⟩

/-- The list is the page's records, each with its entry. -/
theorem mem_frameTiles {snap : Snapshot} (hs : sortedKeys snap.bank.tiles = true) {e : TileEntry} :
    e ∈ frameTiles snap ↔
      ∃ id t, (id < 48 ∧ tget snap.bank.tiles (snap.page * 48 + id) = some t) ∧ frameTile snap id t = e := by
  unfold frameTiles
  rw [List.mem_map]
  constructor
  · rintro ⟨⟨id, t⟩, hx, rfl⟩
    exact ⟨id, t, (mem_pageTiles hs _ _ _).1 (mem_drawOrder.1 hx), rfl⟩
  · rintro ⟨id, t, h, rfl⟩
    exact ⟨(id, t), mem_drawOrder.2 ((mem_pageTiles hs _ _ _).2 h), rfl⟩

/-! ### Availability (R118) -/

section
variable {snap : Snapshot} {t : TileRec} {id : Nat}

theorem tileAvailable_eq_false :
    tileAvailable snap t = false ↔
      ∃ item status, t.item = some item ∧ tget snap.status item = some status ∧ status.available = false := by
  unfold tileAvailable
  cases t.item with
  | none => simp
  | some item =>
    cases h : tget snap.status item with
    | none => simp [h]
    | some status => simp [h]

theorem itemMissing_iff : itemMissing snap t = true ↔ ∃ item, t.item = some item ∧ tget snap.status item = none := by
  unfold itemMissing
  cases t.item <;> simp

/-- The photo a PHOTO tile selects: its own, else its item's default photo (R120). -/
theorem selectedPhoto_eq_some {b : Bank} {photo : Nat} :
    selectedPhoto b t = some photo ↔
      ∃ own ox oy, t.body = .photo own ox oy ∧
        (own = some photo ∨
          (own = none ∧ ∃ item r, t.item = some item ∧ tget b.items item = some r ∧ r.photo = some photo)) := by
  unfold selectedPhoto
  split
  · next own ox oy h => simp [h]
  · next ox oy h => simp [h, Option.bind_eq_some_iff]
  · next h1 h2 =>
    refine ⟨fun h => absurd h.symm (Option.some_ne_none photo), ?_⟩
    rintro ⟨own, ox, oy, hb, -⟩
    cases own with
    | none => exact absurd hb (h2 ox oy)
    | some p => exact absurd hb (h1 p ox oy)

/-! ### Content and flags (R120, R136) -/

theorem tileContent_missing (h : itemMissing snap t = true) :
    tileContent snap id t = (.none, { noTileFlags with missingRef := true }) := by simp only [tileContent, h, if_true]

theorem tileContent_panel (h : itemMissing snap t = false) (hb : t.body = .panel) :
    tileContent snap id t = (.none, noTileFlags) := by
  simp only [tileContent, h, hb, Bool.false_eq_true, if_false]

/-- The content and the flags of a PRICE tile by its text plan. -/
def priceContent : Option TextPlan → Content × TileFlags
  | some (.text start _) => (.text start, noTileFlags)
  | some .overflow => (.none, { noTileFlags with overflow := true })
  | some .tooWide => (.none, { noTileFlags with overflow := true })
  | some .noGlyph => (.none, { noTileFlags with missingGlyph := true })
  | _ => (.none, noTileFlags)

/-- The content and the flags of a PHOTO tile by the photo it selects. -/
def photoContent (photos : Table PhotoState) : Option Nat → Content × TileFlags
  | none => (.none, noTileFlags)
  | some photo =>
    match tget photos photo with
    | none => (.none, { noTileFlags with missingRef := true })
    | some .opened => (.none, { noTileFlags with notReady := true })
    | some .ready => (.photo photo, noTileFlags)

theorem tileContent_price {style : PriceStyle} (h : itemMissing snap t = false) (hb : t.body = .price style) :
    tileContent snap id t = priceContent (tget snap.plans id) := by
  unfold tileContent
  rw [h, hb]
  rfl

theorem tileContent_photo {own : Option Nat} {ox oy : Int} (h : itemMissing snap t = false) (hb : t.body = .photo own ox oy) :
    tileContent snap id t = photoContent snap.photos (selectedPhoto snap.bank t) := by
  unfold tileContent
  rw [h, hb]
  rfl

/-- A tile is shown and dimmed by its show-when, its treatment and its item's availability (R118). -/
theorem tileShown_iff {available : Bool} :
    tileShown available t = true ↔
      (¬ available = false ∧ t.showWhen ≠ .soldOut) ∨ (available = false ∧ t.showWhen ≠ .available ∧ t.treatment ≠ .hide) := by
  cases available <;> simp [tileShown]

theorem tileDimmed_iff {available : Bool} :
    tileDimmed available t = true ↔ available = false ∧ t.showWhen ≠ .available ∧ t.treatment = .dim := by
  cases available with
  | true => simp [tileDimmed]
  | false =>
    simp only [tileDimmed, tileShown, Bool.not_false, Bool.true_and, Bool.false_eq_true, if_false, Bool.and_eq_true, bne_iff_ne,
      ne_eq, decide_eq_true_eq, true_and]
    constructor
    · rintro ⟨⟨h1, -⟩, h2⟩
      exact ⟨h1, h2⟩
    · rintro ⟨h1, h2⟩
      exact ⟨⟨h1, by rw [h2]; exact fun h => by cases h⟩, h2⟩

theorem blinkVisible_iff (number : FrameNo) (half : Byte) :
    blinkVisible number half = true ↔ half = 0 ∨ number.toNat / half.toNat % 2 = 0 := by
  rw [blinkVisible, Bool.or_eq_true, decide_eq_true_iff, decide_eq_true_iff]

end

/-- Settles O57: the order by insertion, each entry by the definitions of its fields. -/
theorem frameTilesFollowTheirRecords : Obligations.FrameTilesFollowTheirRecords := by
  unfold Obligations.FrameTilesFollowTheirRecords
  intro snap hs
  refine ⟨?_, fun id t => ?_, fun e he => ?_⟩
  · exact List.pairwise_map.2 (drawOrder_pairwise (pageTiles_pairwise hs snap.page))
  · constructor
    · rintro ⟨e, he, rfl, rfl⟩
      obtain ⟨id, t, h, rfl⟩ := (mem_frameTiles hs).1 he
      exact h
    · intro h
      exact ⟨frameTile snap id t, (mem_frameTiles hs).2 ⟨id, t, h, rfl⟩, rfl, rfl⟩
  · obtain ⟨id, t, -, rfl⟩ := (mem_frameTiles hs).1 he
    intro t' missing unavailable selected plan draws
    have hdraws : ∀ content m n o g, tileContent snap id t = (content, ⟨m, n, o, g, false⟩) → draws content m n o g :=
      fun content m n o g h => ⟨congrArg Prod.fst h, congrArg Prod.snd h⟩
    have havail : unavailable ↔ tileAvailable snap t = false := tileAvailable_eq_false.symm
    have hmissing : missing ↔ itemMissing snap t = true := itemMissing_iff.symm
    refine ⟨fun x => ?_, fun y => ?_, rfl, ?_, ?_, blinkVisible_iff .., fun h => ?_, fun h => ?_⟩
    · simp only [frameTile, clipRect, t']
      omega
    · simp only [frameTile, clipRect, t']
      omega
    · rw [havail]
      exact tileShown_iff
    · rw [havail]
      exact tileDimmed_iff
    · exact hdraws _ _ _ _ _ (tileContent_missing (hmissing.1 h))
    · have hpresent : itemMissing snap t = false := Bool.eq_false_iff.2 fun hm => h (hmissing.2 hm)
      refine ⟨fun hb => ?_, fun style hb => ?_, fun own ox oy hb hnone => ?_, fun photo hsel => ?_⟩
      · exact hdraws _ _ _ _ _ (tileContent_panel hpresent hb)
      · have hc := tileContent_price (id := id) hpresent hb
        refine ⟨fun start width hp => ?_, fun hp => ?_, fun hp => ?_, fun hp => ?_⟩
        · exact hdraws _ _ _ _ _ (hc.trans (congrArg priceContent hp))
        · obtain hp | hp := hp <;> exact hdraws _ _ _ _ _ (hc.trans (congrArg priceContent hp))
        · exact hdraws _ _ _ _ _ (hc.trans (congrArg priceContent hp))
        · obtain hp | hp | hp := hp <;> exact hdraws _ _ _ _ _ (hc.trans (congrArg priceContent hp))
      · have hno : selectedPhoto snap.bank t = none := by
          cases hp : selectedPhoto snap.bank t with
          | none => rfl
          | some photo => exact absurd (selectedPhoto_eq_some.1 hp) (hnone photo)
        exact hdraws _ _ _ _ _ ((tileContent_photo hpresent hb).trans (congrArg _ hno))
      · have hphoto : selectedPhoto snap.bank t = some photo := selectedPhoto_eq_some.2 hsel
        obtain ⟨own, ox, oy, hb, -⟩ := hsel
        have hc : tileContent snap id t = photoContent snap.photos (some photo) :=
          (tileContent_photo hpresent hb).trans (congrArg _ hphoto)
        refine ⟨fun hp => ?_, fun hp => ?_, fun hp => ?_⟩
        all_goals exact hdraws _ _ _ _ _ (hc.trans (by rw [photoContent, hp]; rfl))

end Sys2Proof.Machine
end

section
/-! The status and the price of each item (R60–R73), and the audit's checks 3 and 4 that measure prices and lines (R36, R37). -/

namespace Sys2Proof.Machine

/-! ### Statuses and prices -/

section
variable {b : Bank} {column id : Nat} {stock : List Stock}

theorem tget_itemStatuses (b : Bank) (column id : Nat) (stock : List Stock) :
    tget (itemStatuses b column stock) id =
      (tget b.items id).map fun r => ⟨offered b column r, available b column stock id r⟩ :=
  tget_map b.items (fun i r => (⟨offered b column r, available b column stock i r⟩ : ItemStatus)) id

theorem tget_priceCache (b : Bank) (column id : Nat) :
    tget (priceCache b column) id = (tget b.items id).map (priceEntry b column) :=
  tget_map b.items (fun _ r => priceEntry b column r) id

theorem basePrice_eq_some {v : Nat} :
    basePrice b column id = some v ↔
      ∃ prices photo, tget b.items id = some ⟨.simple prices, photo⟩ ∧ columnGet prices column = some v := by
  unfold basePrice
  split
  · next prices photo h => simp [h]
  · next hno => exact ⟨fun h => absurd h.symm (Option.some_ne_none v), fun ⟨prices, photo, h, _⟩ => absurd h (hno prices photo)⟩

/-- An entry other than SOLD_OUT, or none, is AVAILABLE (R62). -/
theorem stockOf_available_iff : stockOf stock id = .available ↔ stock[id]? ≠ some .soldOut := by
  rw [stockOf, List.getD_eq_getElem?_getD]
  cases stock[id]? with
  | none => simp
  | some x => cases x <;> simp

theorem offered_simple (prices : PerColumn (Option Nat)) (photo : Option Nat) :
    offered b column ⟨.simple prices, photo⟩ = (columnGet prices column).isSome := rfl

theorem offered_combo (components : List Component) (discount : Nat) (photo : Option Nat) :
    offered b column ⟨.combo components discount, photo⟩ =
      components.all fun c => (basePrice b column c.item).isSome := rfl

/-- An offered SIMPLE item is available by its own stock entry, a COMBO by its components' too (R62). -/
theorem available_simple_iff {prices : PerColumn (Option Nat)} {photo : Option Nat}
    (h : offered b column ⟨.simple prices, photo⟩ = true) :
    available b column stock id ⟨.simple prices, photo⟩ = true ↔ stock[id]? ≠ some .soldOut := by
  rw [available, h, Bool.true_and, Bool.and_true, decide_eq_true_iff, stockOf_available_iff]

theorem available_combo_iff {components : List Component} {discount : Nat} {photo : Option Nat}
    (h : offered b column ⟨.combo components discount, photo⟩ = true) :
    available b column stock id ⟨.combo components discount, photo⟩ = true ↔
      stock[id]? ≠ some .soldOut ∧ ∀ c ∈ components, stock[c.item]? ≠ some .soldOut := by
  rw [available, h, Bool.true_and, Bool.and_eq_true, decide_eq_true_iff, stockOf_available_iff, List.all_eq_true]
  refine and_congr Iff.rfl (forall₂_congr fun c _ => ?_)
  rw [decide_eq_true_iff, stockOf_available_iff]

theorem untaxedValue_simple (prices : PerColumn (Option Nat)) (photo : Option Nat) :
    untaxedValue b column ⟨.simple prices, photo⟩ =
      adjust ((columnGet prices column).getD 0) (columnGet b.factors column) := rfl

/-- The entry of an item that is not offered (R66). -/
theorem priceEntry_notOffered {r : ItemRec} (h : offered b column r = false) : priceEntry b column r = .notOffered := by
  rw [priceEntry, h]
  rfl

/-- The entry of an offered item: its rounded price, printed up to the limit (R67, R73). -/
theorem priceEntry_offered {r : ItemRec} (h : offered b column r = true) :
    priceEntry b column r =
      if priceValue b column r ≤ 999999 then .priced (priceValue b column r) (glyphSequence b.format (priceValue b column r))
      else .overflow (priceValue b column r) := by
  rw [priceEntry, h]
  rfl

/-- The components of a COMBO that are all offered have their base prices (R61). -/
theorem combo_prices {components : List Component} {prices : List Nat}
    (h : List.Forall₂ (fun c p => basePrice b column c.item = some p) components prices) (f : Nat) :
    (components.all fun c => (basePrice b column c.item).isSome) = true ∧
    (components.map fun c => c.quantity * adjust ((basePrice b column c.item).getD 0) f) =
      List.zipWith (fun c p => c.quantity * adjust p f) components prices := by
  induction h with
  | nil => exact ⟨rfl, rfl⟩
  | cons hc _ ih =>
    rw [List.all_cons, List.map_cons, List.zipWith_cons_cons, ih.1, ih.2, hc]
    exact ⟨rfl, rfl⟩

end

/-- Settles O55, for a SIMPLE item by its position and for a COMBO by its components. -/
theorem itemStatusesAndPricesFollowTheirRules : Obligations.ItemStatusesAndPricesFollowTheirRules := by
  unfold Obligations.ItemStatusesAndPricesFollowTheirRules
  intro b column id stock status entry price inStock adjusted taxed priced notOffered
  have hstatus : status = _ := tget_itemStatuses b column id stock
  have hentry : entry = _ := tget_priceCache b column id
  have hoff : ∀ r, tget b.items id = some r → offered b column r = false → notOffered := by
    intro r hr ho
    have havail : available b column stock id r = false := by rw [available, ho]; rfl
    refine ⟨?_, ?_⟩
    · rw [hstatus, hr, Option.map_some, ho, havail]
    · rw [hentry, hr, Option.map_some, priceEntry_notOffered ho]
  have hon : ∀ r v, tget b.items id = some r → offered b column r = true → untaxedValue b column r = v → priced v := by
    rintro r _ hr ho rfl
    change entry = _
    rw [hentry, hr, Option.map_some, priceEntry_offered ho]
    rfl
  refine ⟨fun h => ?_, fun prices photo h => ⟨fun hc => ?_, fun p hc => ⟨?_, ?_⟩⟩,
    fun components discount photo h => ⟨?_, fun prices hprices => ?_⟩⟩
  · rw [hstatus, hentry, h]
    exact ⟨rfl, rfl⟩
  · exact hoff _ h (by rw [offered_simple, hc]; rfl)
  · have ho : offered b column ⟨.simple prices, photo⟩ = true := by rw [offered_simple, hc]; rfl
    exact ⟨available b column stock id ⟨.simple prices, photo⟩, by rw [hstatus, h, Option.map_some, ho],
      available_simple_iff ho⟩
  · exact hon _ _ h (by rw [offered_simple, hc]; rfl) (by rw [untaxedValue_simple, hc]; rfl)
  · rintro ⟨c, hc, hno⟩
    refine hoff _ h ?_
    rw [offered_combo, Bool.eq_false_iff]
    intro hall
    obtain ⟨p, hp⟩ := Option.isSome_iff_exists.1 (List.all_eq_true.1 hall c hc)
    exact hno p (basePrice_eq_some.1 hp)
  · have hbase : List.Forall₂ (fun c p => basePrice b column c.item = some p) components prices :=
      hprices.imp fun _ _ hp => basePrice_eq_some.2 hp
    obtain ⟨hall, hsum⟩ := combo_prices hbase (columnGet b.factors column)
    have ho : offered b column ⟨.combo components discount, photo⟩ = true := hall
    refine ⟨⟨available b column stock id ⟨.combo components discount, photo⟩, by rw [hstatus, h, Option.map_some, ho],
      available_combo_iff ho⟩, hon _ _ h ho ?_⟩
    exact congrArg (fun l : List Nat => l.sum - discount) hsum

end Sys2Proof.Machine
end

section
/-! The audit's checks 3 and 4: the prices that do not fit their tiles (R36, R85), and the lines whose photo tiles ask for more than
the budget (R37). -/

namespace Sys2Proof.Machine

/-! ### Scans in ascending order -/

theorem find?_least {p : Nat → Bool} {l : List Nat} {c : Nat} (hs : List.Pairwise (· < ·) l) (hc : c ∈ l) (hp : p c = true)
    (h : ∀ x ∈ l, x < c → p x = false) : l.find? p = some c := by
  obtain ⟨before, after, rfl⟩ := List.append_of_mem hc
  refine find?_first (fun x hx => h x (List.mem_append_left _ hx) ?_) hp
  exact (List.pairwise_append.1 hs).2.2 x hx c (List.mem_cons_self ..)

theorem findSome?_range {α : Type} {f : Nat → Option α} {k i : Nat} {y : α} (hi : i < k) (hy : f i = some y)
    (h : ∀ j, j < i → f j = none) : (List.range k).findSome? f = some y := by
  have hsplit : List.range k = List.range i ++ i :: (List.range (k - i - 1)).map (i + 1 + ·) := by
    rw [show k = i + 1 + (k - i - 1) by omega, List.range_add, List.range_succ, List.append_assoc]
    rw [show i + 1 + (k - i - 1) - i - 1 = k - i - 1 by omega]
    rfl
  rw [hsplit]
  exact findSome?_first (fun j hj => h j (List.mem_range.1 hj)) hy

/-! ### PRICE_FIT (R36) -/

section
variable {b : Bank} {slots : List GlyphSlot} {page column : Nat} {t : TileRec} {style : PriceStyle}

/-- The columns a page is tested in: those that entries pair with it, or column 0 where none names it. -/
theorem mem_testedColumns (hin : ScheduleInRange b.schedule) :
    column ∈ testedColumns b page ↔
      (∃ e ∈ b.schedule, e.page = page ∧ e.column = column) ∨ (column = 0 ∧ ∀ e ∈ b.schedule, e.page ≠ page) := by
  unfold testedColumns
  split
  · next hany =>
    obtain ⟨x, hx, hpage⟩ := List.any_eq_true.1 hany
    rw [decide_eq_true_iff] at hpage
    rw [List.mem_filter, List.any_eq_true]
    simp only [Bool.and_eq_true, decide_eq_true_eq]
    constructor
    · exact fun ⟨_, h⟩ => .inl h
    · rintro (⟨e, he, h1, h2⟩ | ⟨-, hno⟩)
      · have := (hin.2.1 e he).2.2
        exact ⟨by simp; omega, e, he, h1, h2⟩
      · exact absurd hpage (hno x hx)
  · next hany =>
    have hno : ∀ e ∈ b.schedule, e.page ≠ page := fun e he hp =>
      hany (List.any_eq_true.2 ⟨e, he, decide_eq_true hp⟩)
    rw [List.mem_singleton]
    exact ⟨fun h => .inr ⟨h, hno⟩, fun h => h.elim (fun ⟨e, he, hp, _⟩ => absurd hp (hno e he)) And.left⟩

theorem testedColumns_pairwise : List.Pairwise (· < ·) (testedColumns b page) := by
  unfold testedColumns
  split
  · exact List.Pairwise.filter _ (by decide)
  · exact List.pairwise_singleton _ _

theorem slotLoaded_eq_false (x : GlyphSlot) : slotLoaded x = false ↔ ∀ w h bitmap, x ≠ .loaded w h bitmap := by
  cases x <;> simp [slotLoaded]

/-- A price that misfits a tile of a width: it is in overflow, a glyph is not LOADED or the text is too wide (R36, R85). -/
def EntryMisfits (slots : List GlyphSlot) (style : PriceStyle) (width : Nat) (entry : PriceEntry) : Prop :=
  (∃ v, entry = .overflow v) ∨
    ∃ v glyphs, entry = .priced v glyphs ∧
      ((∃ g ∈ glyphs, ∀ w h bitmap, slotOf slots style.font g ≠ .loaded w h bitmap) ∨
        width < (glyphs.map fun g => slotWidth (slotOf slots style.font g)).sum + style.tracking * (glyphs.length - 1) +
          2 * style.pad.toNat)

/-- Whether a text plan prints its price, or has nothing to print. -/
def planFits : TextPlan → Bool
  | .noItem | .noPrice | .text _ _ => true
  | .overflow | .noGlyph | .tooWide => false

theorem priceFits_eq :
    priceFits b slots t style column =
      planFits (textPlan (fun g => slotLoaded (slotOf slots style.font g)) (fun g => slotWidth (slotOf slots style.font g))
        (t.item.bind (tget (priceCache b column))) style t.w) := by
  have hentry : (t.item.bind (tget b.items)).map (priceEntry b column) = t.item.bind (tget (priceCache b column)) := by
    cases t.item with
    | none => rfl
    | some item => exact (tget_priceCache b column item).symm
  rw [priceFits, hentry]
  rfl

theorem planFits_entry (entry : PriceEntry) (width : Nat) :
    planFits (textPlan (fun g => slotLoaded (slotOf slots style.font g)) (fun g => slotWidth (slotOf slots style.font g))
      (some entry) style width) = false ↔ EntryMisfits slots style width entry := by
  cases entry with
  | notOffered => simp [textPlan, planFits, EntryMisfits]
  | overflow v => simp [textPlan, planFits, EntryMisfits]
  | priced v glyphs =>
    have hany : (glyphs.any fun g => !slotLoaded (slotOf slots style.font g)) = true ↔
        ∃ g ∈ glyphs, ∀ w h bitmap, slotOf slots style.font g ≠ .loaded w h bitmap := by
      simp only [List.any_eq_true, Bool.not_eq_true', slotLoaded_eq_false]
    have hwhole : EntryMisfits slots style width (.priced v glyphs) ↔
        (glyphs.any fun g => !slotLoaded (slotOf slots style.font g)) = true ∨
          width < textWidth (fun g => slotWidth (slotOf slots style.font g)) style.tracking glyphs + 2 * style.pad.toNat := by
      rw [hany]
      simp [EntryMisfits, textWidth]
    rw [hwhole, textPlan]
    by_cases h1 : (glyphs.any fun g => !slotLoaded (slotOf slots style.font g)) = true
    · simp [h1, planFits]
    · by_cases h2 :
        width < textWidth (fun g => slotWidth (slotOf slots style.font g)) style.tracking glyphs + 2 * style.pad.toNat
      · simp [h1, h2, planFits]
      · simp [h1, h2, planFits]

/-- A tile's price misfits in a column where the entry of its item does; a MISSING item passes. -/
theorem priceFits_eq_false :
    priceFits b slots t style column = false ↔
      ∃ item entry, t.item = some item ∧ tget (priceCache b column) item = some entry ∧
        EntryMisfits slots style t.w entry := by
  rw [priceFits_eq]
  cases t.item with
  | none => simp [textPlan, planFits]
  | some item =>
    rw [Option.bind_some]
    cases hc : tget (priceCache b column) item with
    | none => simp [textPlan, planFits, hc]
    | some entry => rw [planFits_entry]; simp [hc]

/-- The failure of one tile's scan through its columns. -/
def priceFault (b : Bank) (slots : List GlyphSlot) (e : Nat × TileRec) : Option AuditFailure :=
  match e.2.body with
  | .price style =>
    ((testedColumns b (e.1 / 48)).find? fun c => !priceFits b slots e.2 style c).map (.tile (e.1 / 48) (e.1 % 48))
  | _ => none

theorem checkPriceFit_eq : checkPriceFit b slots = b.tiles.findSome? (priceFault b slots) := rfl

/-- The misfit of a PRICE tile in a column. -/
def Misfits (b : Bank) (slots : List GlyphSlot) (t : TileRec) (column : Nat) : Prop :=
  ∃ style, t.body = .price style ∧ priceFits b slots t style column = false

theorem priceFault_eq_none {e : Nat × TileRec} :
    priceFault b slots e = none ↔ ∀ c ∈ testedColumns b (e.1 / 48), ¬ Misfits b slots e.2 c := by
  unfold priceFault Misfits
  split
  · next style hb =>
    rw [Option.map_eq_none_iff, List.find?_eq_none]
    refine forall₂_congr fun c _ => ?_
    simp [hb]
  · next hno =>
    exact ⟨fun _ c _ ⟨style, hb, _⟩ => hno style hb, fun _ => rfl⟩

/-- The first column that misfits is the failure. -/
theorem priceFault_first {key : Nat} (hc : column ∈ testedColumns b (key / 48)) (hm : Misfits b slots t column)
    (h : ∀ x ∈ testedColumns b (key / 48), x < column → ¬ Misfits b slots t x) :
    priceFault b slots (key, t) = some (.tile (key / 48) (key % 48) column) := by
  obtain ⟨style, hb, hfit⟩ := hm
  have hfind : ((testedColumns b (key / 48)).find? fun c => !priceFits b slots t style c) = some column := by
    refine find?_least testedColumns_pairwise hc (by rw [hfit]; rfl) fun x hx hlt => ?_
    cases hx' : priceFits b slots t style x with
    | true => rfl
    | false => exact absurd ⟨style, hb, hx'⟩ (h x hx hlt)
  simp only [priceFault, hb, hfind, Option.map_some]

end

/-! ### LINE_BUDGET (R37) -/

section
variable {b : Bank} {d : Table PhotoRec} {vw vh : Nat}

/-- What the photo tiles of a page ask for on a line, each taken as shown. -/
def pageDemand (b : Bank) (d : Table PhotoRec) (vw vh page n : Nat) : Nat :=
  ((pageTiles b page).map fun e => auditDemand b d vw vh n e.2).sum

theorem checkLineBudget_eq :
    checkLineBudget b d vw vh =
      (List.range 8).findSome? fun page =>
        ((List.range vh).find? fun n => decide (3072 < pageDemand b d vw vh page n)).map (.page page) := rfl

theorem pageDemand_eq (page n : Nat) :
    pageDemand b d vw vh page n =
      ((b.tiles.filter fun e => e.1 / 48 = page).map fun e => auditDemand b d vw vh n e.2).sum := by
  have hsize : Config.tilesPerPage = 48 := rfl
  unfold pageDemand pageTiles
  rw [hsize]
  induction b.tiles with
  | nil => rfl
  | cons e l ih =>
    by_cases hp : e.1 / 48 = page <;> simp [hp, ih]

theorem lineFault_eq_none (page : Nat) :
    ((List.range vh).find? fun n => decide (3072 < pageDemand b d vw vh page n)).map (AuditFailure.page page) = none ↔
      ∀ n, n < vh → pageDemand b d vw vh page n ≤ 3072 := by
  simp

theorem lineFault_first {page n : Nat} (hn : n < vh) (hover : 3072 < pageDemand b d vw vh page n)
    (h : ∀ m, m < n → pageDemand b d vw vh page m ≤ 3072) :
    ((List.range vh).find? fun n => decide (3072 < pageDemand b d vw vh page n)).map (AuditFailure.page page) =
      some (.page page n) := by
  rw [find?_least List.pairwise_lt_range (List.mem_range.2 hn) (decide_eq_true hover) fun m _ hm =>
    decide_eq_false (not_lt.2 (h m hm))]
  rfl

/-- A PHOTO tile asks for the screen columns of its own photo or its item's default photo (R37). -/
theorem auditDemand_photo {t : TileRec} {own : Option Nat} {ox oy : Int} (hb : t.body = .photo own ox oy) (n : Nat) :
    auditDemand b d vw vh n t =
      match (selectedPhoto b t).bind (tget d) with
      | some r => pixelsAsked t ox oy r vw vh n
      | none => 0 := by
  cases hsel : (selectedPhoto b t).bind (tget d) <;> simp only [auditDemand, hb, hsel, placedDemand_eq]

theorem selectedPhoto_photo {t : TileRec} {own : Option Nat} {ox oy : Int} (hb : t.body = .photo own ox oy) :
    selectedPhoto b t =
      match own with
      | some p => some p
      | none => t.item.bind fun item => (tget b.items item).bind fun r => r.photo := by
  cases own <;> simp only [selectedPhoto, hb]

theorem auditDemand_other {t : TileRec} (h : ∀ own ox oy, t.body ≠ .photo own ox oy) (n : Nat) :
    auditDemand b d vw vh n t = 0 := by
  unfold auditDemand
  split
  · next own ox oy hb => exact absurd hb (h own ox oy)
  · rfl

end

/-- Settles O59: each check reports the first fault of its scan. -/
theorem auditChecksPricesAndLineDemands : Obligations.AuditChecksPricesAndLineDemands := by
  unfold Obligations.AuditChecksPricesAndLineDemands
  intro s f hf hin b tested slot width misfits fits settings asked total
  have htested : ∀ page column, column ∈ testedColumns b page ↔ tested page column := fun page column =>
    mem_testedColumns hin
  have hmisfits : ∀ t column, Misfits b s.glyphs.slots t column ↔ misfits t column := by
    intro t column
    unfold Misfits
    simp only [priceFits_eq_false]
    constructor
    · rintro ⟨style, hb, item, entry, hi, he, h⟩
      exact ⟨style, item, entry, hb, hi, he, h⟩
    · rintro ⟨style, item, entry, hb, hi, he, h⟩
      exact ⟨style, hb, item, entry, hi, he, h⟩
  have hfits : ∀ e : Nat × TileRec, priceFault b s.glyphs.slots e = none ↔ fits e := by
    intro e
    rw [priceFault_eq_none]
    exact forall_congr' fun column => imp_congr (htested _ _) (not_congr (hmisfits _ _))
  have hasked : ∀ n t, auditDemand b s.photos.directory settings.vw settings.vh n t = asked n t := by
    intro n t
    cases hb : t.body with
    | photo own ox oy =>
      rw [auditDemand_photo hb, selectedPhoto_photo hb]
      simp only [asked, hb]
      cases own <;> rfl
    | price style =>
      rw [auditDemand_other (by simp [hb])]
      simp only [asked, hb]
    | panel =>
      rw [auditDemand_other (by simp [hb])]
      simp only [asked, hb]
  have htotal : ∀ page n, pageDemand b s.photos.directory settings.vw settings.vh page n = total page n := by
    intro page n
    rw [pageDemand_eq]
    simp only [hasked]
    rfl
  have hlines : runCheck s 4 = checkLineBudget b s.photos.directory settings.vw settings.vh := by
    have hsettings : frameSettings s = settings := by rw [frameSettings, hf]
    rw [← hsettings]
    rfl
  refine ⟨?_, ?_, ?_, ?_⟩
  · refine Iff.trans (List.findSome?_eq_none_iff (p := priceFault b s.glyphs.slots)) ?_
    exact forall₂_congr fun e _ => hfits e
  · intro before after key t column hsplit hbefore htest hm hearlier
    have hfault : priceFault b s.glyphs.slots (key, t) = some (.tile (key / 48) (key % 48) column) :=
      priceFault_first ((htested _ _).2 htest) ((hmisfits _ _).2 hm) fun x hx hlt =>
        mt (hmisfits t x).1 (hearlier x hlt ((htested _ _).1 hx))
    change checkPriceFit b s.glyphs.slots = _
    rw [checkPriceFit_eq, hsplit]
    exact findSome?_first (fun e he => (hfits e).2 (hbefore e he)) hfault
  · rw [hlines, checkLineBudget_eq, List.findSome?_eq_none_iff]
    simp only [lineFault_eq_none, List.mem_range]
    simp only [htotal]
    exact ⟨fun h page n hp hn => h page hp n hn, fun h page hp n hn => h page n hp hn⟩
  · intro page n hp hn hover hbefore
    rw [hlines, checkLineBudget_eq]
    refine findSome?_range hp (lineFault_first hn (by rwa [htotal]) fun m hm => ?_) fun q hq => ?_
    · rw [htotal]
      exact hbefore page m hp (by omega) (.inr ⟨rfl, hm⟩)
    · rw [lineFault_eq_none]
      intro m hm
      rw [htotal]
      exact hbefore q m (by omega) hm (.inl hq)

end Sys2Proof.Machine
end

section
/-! What a tile and a highlight ring draw on a pixel (R82, R122–R127, R130, R134, R135), and how a colour is blended (R123). -/

namespace Sys2Proof.Machine

/-! ### Blending (R123) -/

section
variable (c d : Byte) {a : Nat}

/-- A weighted mean lies between its two values. -/
theorem weightedMean_bounds (x y : Nat) (h : a ≤ 255) :
    min x y ≤ (a * x + (255 - a) * y + 127) / 255 ∧ (a * x + (255 - a) * y + 127) / 255 ≤ max x y := by
  have hsplit : ∀ m : Nat, a * m + (255 - a) * m = 255 * m := fun m => by
    rw [← Nat.add_mul, Nat.add_sub_cancel' h]
  have hlow : 255 * min x y ≤ a * x + (255 - a) * y := hsplit (min x y) ▸
    Nat.add_le_add (Nat.mul_le_mul_left _ (min_le_left _ _)) (Nat.mul_le_mul_left _ (min_le_right _ _))
  have hhigh : a * x + (255 - a) * y ≤ 255 * max x y := hsplit (max x y) ▸
    Nat.add_le_add (Nat.mul_le_mul_left _ (le_max_left _ _)) (Nat.mul_le_mul_left _ (le_max_right _ _))
  omega

theorem blendChannel_toNat (h : a ≤ 255) :
    (blendChannel c d a).toNat = (a * c.toNat + (255 - a) * d.toNat + 127) / 255 := by
  have hmax := (weightedMean_bounds c.toNat d.toNat h).2
  have hc := c.isLt
  have hd := d.isLt
  rw [blendChannel, BitVec.toNat_ofNat, Nat.mod_eq_of_lt]
  omega

theorem blendChannel_full : blendChannel c d 255 = c := by
  refine BitVec.eq_of_toNat_eq ?_
  rw [blendChannel_toNat c d le_rfl]
  omega

theorem blendChannel_zero : blendChannel c d 0 = d := by
  refine BitVec.eq_of_toNat_eq ?_
  rw [blendChannel_toNat c d (Nat.zero_le _)]
  omega

theorem blend_zero (c d : Color) : blend c d 0 = d := by simp only [blend, blendChannel_zero]

end

/-! ### Rings (R134, R135) -/

theorem ringPixel_iff (h : Highlight) (t : TileRec) (n x : Nat) :
    ringPixel h t n x = true ↔
      (t.x - h.margin ≤ x ∧ (x : Int) < t.x + t.w + h.margin ∧ t.y - h.margin ≤ n ∧ (n : Int) < t.y + t.h + h.margin) ∧
      ((x : Int) < t.x - h.margin + h.thickness ∨ t.x + t.w + h.margin - h.thickness ≤ x ∨
        (n : Int) < t.y - h.margin + h.thickness ∨ t.y + t.h + h.margin - h.thickness ≤ n) := by
  simp only [ringPixel, Bool.and_eq_true, Bool.or_eq_true, decide_eq_true_eq]
  omega

/-! ### Text (R82) -/

section
variable {slots : List GlyphSlot} {font tracking : Nat}

theorem inkOf_loaded (w h : Nat) (bitmap : List (List Bool)) (column line : Nat) :
    inkOf (.loaded w h bitmap) column line = true ↔ ∃ row, bitmap[line]? = some row ∧ row[column]? = some true := by
  rw [inkOf, List.getD_eq_getElem?_getD, List.getD_eq_getElem?_getD]
  cases bitmap[line]? with
  | none => simp
  | some row => cases hr : row[column]? <;> simp [hr]

/-- The width of a text before one of its glyphs. -/
def advance (slots : List GlyphSlot) (font tracking : Nat) (glyphs : List Nat) : Nat :=
  (glyphs.map fun g => slotWidth (slotOf slots font g) + tracking).sum

/-- A text has ink where one of its glyphs, side by side from the left edge, has. -/
theorem textInk_iff (glyphs : List Nat) (left column line : Nat) :
    textInk slots font tracking glyphs left column line = true ↔
      ∃ k g w h bitmap, glyphs[k]? = some g ∧ slotOf slots font g = .loaded w h bitmap ∧
        left + advance slots font tracking (glyphs.take k) ≤ column ∧
        column < left + advance slots font tracking (glyphs.take k) + w ∧
        inkOf (.loaded w h bitmap) (column - (left + advance slots font tracking (glyphs.take k))) line = true := by
  induction glyphs generalizing left with
  | nil => simp [textInk]
  | cons g glyphs ih =>
    rw [textInk]
    have hzero : left + advance slots font tracking ((g :: glyphs).take 0) = left := rfl
    have hsucc : ∀ k, left + advance slots font tracking ((g :: glyphs).take (k + 1)) =
        left + slotWidth (slotOf slots font g) + tracking + advance slots font tracking (glyphs.take k) := fun k => by
      rw [List.take_succ_cons, advance, List.map_cons, List.sum_cons, advance]
      omega
    by_cases hin : left ≤ column ∧ column < left + slotWidth (slotOf slots font g)
    · rw [if_pos hin]
      constructor
      · intro hink
        cases hs : slotOf slots font g with
        | loaded w h bitmap =>
          rw [hs] at hin hink
          exact ⟨0, g, w, h, bitmap, rfl, hs, hin.1, hin.2, hink⟩
        | empty => rw [hs] at hink; cases hink
        | loading rows => rw [hs] at hink; cases hink
      · rintro ⟨k, g', w, h, bitmap, hk, hs, hlow, hhigh, hink⟩
        cases k with
        | zero =>
          obtain rfl := Option.some.inj hk
          rw [hs]
          exact hink
        | succ k =>
          rw [hsucc] at hlow
          omega
    · rw [if_neg hin, ih]
      constructor
      · rintro ⟨k, g', w, h, bitmap, hk, hs, hlow, hhigh, hink⟩
        refine ⟨k + 1, g', w, h, bitmap, hk, hs, ?_⟩
        rw [hsucc]
        exact ⟨hlow, hhigh, hink⟩
      · rintro ⟨k, g', w, h, bitmap, hk, hs, hlow, hhigh, hink⟩
        cases k with
        | zero =>
          obtain rfl := Option.some.inj hk
          rw [hzero] at hlow hhigh
          exact absurd ⟨hlow, by rw [hs]; exact hhigh⟩ hin
        | succ k =>
          rw [hsucc] at hlow hhigh hink
          exact ⟨k, g', w, h, bitmap, hk, hs, hlow, hhigh, hink⟩

end

/-! ### Tiles (R122–R127, R130) -/

/-- The running colour after a tile's fill (R124). -/
def fillColor (snap : Snapshot) (e : TileEntry) (d : Color) : Color :=
  match e.tile.fill with
  | some f => blend (sourceColor snap e.dimmed f.color) d f.opacity.toNat
  | none => d

section
variable {s : State} {snap : Snapshot} {n x : Nat} {e : TileEntry} {degraded : Bool}

theorem tileCovers_iff :
    (activeOn e n && e.clip.x0 ≤ x && x < e.clip.x1) = true ↔
      e.shown = true ∧ e.blinkVisible = true ∧ e.clip.x0 ≤ x ∧ x < e.clip.x1 ∧ e.clip.y0 ≤ n ∧ n < e.clip.y1 := by
  simp only [activeOn, Bool.and_eq_true, decide_eq_true_eq]
  constructor
  · rintro ⟨⟨⟨⟨⟨⟨h1, h2⟩, h3⟩, h4⟩, h5⟩, h6⟩, h7⟩
    exact ⟨h1, h2, h6, h7, h4, h5⟩
  · rintro ⟨h1, h2, h6, h7, h4, h5⟩
    exact ⟨⟨⟨⟨⟨⟨h1, h2⟩, by omega⟩, h4⟩, h5⟩, h6⟩, h7⟩

theorem drawTile_outside (d : Color) (h : ¬ (activeOn e n && e.clip.x0 ≤ x && x < e.clip.x1) = true) :
    drawTile s snap n x d (e, degraded) = d := if_neg h

/-- A tile that covers the pixel blends its fill, then its content's pixel where it has one and is not degraded. -/
theorem drawTile_covering (d : Color) (h : (activeOn e n && e.clip.x0 ≤ x && x < e.clip.x1) = true) :
    drawTile s snap n x d (e, degraded) =
      if degraded then fillColor snap e d
      else
        match contentPixel s snap e n x with
        | some c => blend (sourceColor snap e.dimmed c.1) (fillColor snap e d) c.2
        | none => fillColor snap e d := if_pos h

theorem contentPixel_none (h : e.content = .none) : contentPixel s snap e n x = none := by simp only [contentPixel, h]

/-- The effective alpha of a photo pixel: 0 at the key colour, else the tile's opacity (R125). -/
theorem photoAlpha_eq (key : Option Color) (pixel : Color) (opacity : Byte) :
    photoAlpha key pixel opacity = if key = some pixel then 0 else opacity.toNat := by
  unfold photoAlpha
  split <;> omega

theorem contentPixel_photo {id : Nat} {own : Option Nat} {ox oy : Int} {r : PhotoRec} (hc : e.content = .photo id)
    (hb : e.tile.body = .photo own ox oy) (hr : tget s.photos.directory id = some r) :
    contentPixel s snap e n x =
      if 0 ≤ (x : Int) - e.tile.x - ox ∧ (x : Int) - e.tile.x - ox < r.w ∧ 0 ≤ (n : Int) - e.tile.y - oy ∧
          (n : Int) - e.tile.y - oy < r.h then
        some
          (photoPixel s.photos.memory r ((x : Int) - e.tile.x - ox).toNat ((n : Int) - e.tile.y - oy).toNat,
            photoAlpha r.key
              (photoPixel s.photos.memory r ((x : Int) - e.tile.x - ox).toNat ((n : Int) - e.tile.y - oy).toNat)
              e.tile.opacity)
      else none := by
  simp only [contentPixel, hc, hb, hr]

theorem contentPixel_noPhoto {id : Nat} {own : Option Nat} {ox oy : Int} (hc : e.content = .photo id)
    (hb : e.tile.body = .photo own ox oy) (hr : tget s.photos.directory id = none) :
    contentPixel s snap e n x = none := by
  simp only [contentPixel, hc, hb, hr]

theorem contentPixel_text {start item v : Nat} {glyphs : List Nat} {style : PriceStyle} (hc : e.content = .text start)
    (hb : e.tile.body = .price style) (hi : e.tile.item = some item) (he : tget snap.cache item = some (.priced v glyphs)) :
    contentPixel s snap e n x =
      if 0 ≤ (n : Int) - e.tile.y - style.textTop ∧
          textInk s.glyphs.slots style.font style.tracking glyphs start ((x : Int) - e.tile.x).toNat
            ((n : Int) - e.tile.y - style.textTop).toNat = true then
        some (style.ink, e.tile.opacity.toNat)
      else none := by
  have hglyphs : cachedGlyphs snap.cache e.tile.item = glyphs := by
    simp only [cachedGlyphs, hi, Option.bind_some, he]
  simp only [contentPixel, hc, hb, hglyphs]

end

/-- The ink of a text on the screen: a glyph's bitmap at the pixel's column and line of its cell (R82, R126). -/
theorem screenInk_iff {slots : List GlyphSlot} {font tracking start n x : Nat} {glyphs : List Nat} {tx top : Int}
    (hx : tx ≤ x) :
    (0 ≤ (n : Int) - top ∧
        textInk slots font tracking glyphs start ((x : Int) - tx).toNat ((n : Int) - top).toNat = true) ↔
      ∃ k g w h bitmap row, glyphs[k]? = some g ∧ slotOf slots font g = .loaded w h bitmap ∧
        tx + start + (advance slots font tracking (glyphs.take k) : Nat) ≤ x ∧
        (x : Int) < tx + start + (advance slots font tracking (glyphs.take k) : Nat) + w ∧ top ≤ n ∧
        bitmap[((n : Int) - top).toNat]? = some row ∧
        row[((x : Int) - (tx + start + (advance slots font tracking (glyphs.take k) : Nat))).toNat]? = some true := by
  have hcell : ∀ m : Nat, ((x : Int) - (tx + start + m)).toNat = ((x : Int) - tx).toNat - (start + m) := fun m => by omega
  rw [textInk_iff]
  simp only [inkOf_loaded, hcell]
  constructor
  · rintro ⟨hn, k, g, w, h, bitmap, hk, hs, hlow, hhigh, row, hrow, hink⟩
    exact ⟨k, g, w, h, bitmap, row, hk, hs, by omega, by omega, by omega, hrow, hink⟩
  · rintro ⟨k, g, w, h, bitmap, row, hk, hs, hlow, hhigh, hn, hrow, hink⟩
    exact ⟨by omega, k, g, w, h, bitmap, hk, hs, by omega, by omega, row, hrow, hink⟩

/-- What a highlight slot's ring does to a pixel (R135). -/
theorem drawRing_some (snap : Snapshot) (h : Highlight) (n x : Nat) (d : Color) :
    drawRing snap (some h) n x d =
      match tget snap.bank.tiles (snap.page * 48 + h.tile) with
      | none => d
      | some t => if blinkVisible snap.number h.blink && ringPixel h t n x then h.color else d := rfl

/-- Settles O54: blends, rings and tiles, each by the law of its operation. -/
theorem tilesAndRingsDrawAsTheirRulesSay : Obligations.TilesAndRingsDrawAsTheirRulesSay := by
  unfold Obligations.TilesAndRingsDrawAsTheirRulesSay
  refine ⟨fun c d a ha => ?_, fun c d a => rfl, fun s snap granted base n x => rfl, ?_, ?_⟩
  · have hbounds := weightedMean_bounds c.toNat d.toNat ha
    rw [blendChannel_toNat c d ha]
    exact ⟨rfl, blendChannel_full c d, blendChannel_zero c d, hbounds.1, hbounds.2⟩
  · intro snap slot n x d ringed
    refine ⟨by rintro rfl; rfl, ?_⟩
    rintro h rfl
    rw [drawRing_some]
    have hring : ∀ t, (blinkVisible snap.number h.blink && ringPixel h t n x) = true ↔ _ := fun t =>
      Bool.and_eq_true_iff.trans (and_congr (blinkVisible_iff snap.number h.blink) (ringPixel_iff h t n x))
    refine ⟨?_, fun hno => ?_⟩
    · rintro ⟨t, ht, hblink, hin⟩
      rw [ht]
      exact if_pos ((hring t).2 ⟨hblink, hin⟩)
    · split
      · rfl
      · next t ht => exact if_neg fun hon => hno ⟨t, ht, (hring t).1 hon⟩
  · intro s snap n x d e degraded t covers grey source filled drawn
    have hcov : (activeOn e n && e.clip.x0 ≤ x && x < e.clip.x1) = true ↔ covers := tileCovers_iff
    have hdraw : covers → drawn = _ := fun h => drawTile_covering (degraded := degraded) d (hcov.2 h)
    have hplain : covers → degraded = false → contentPixel s snap e n x = none → drawn = filled := by
      intro h hd hc
      rw [hdraw h, hd, hc]
      rfl
    have hpixel : ∀ pixel alpha, covers → degraded = false → contentPixel s snap e n x = some (pixel, alpha) →
        drawn = blend (source pixel) filled alpha := by
      intro pixel alpha h hd hc
      rw [hdraw h, hd, hc]
      rfl
    refine ⟨fun h => drawTile_outside d (mt hcov.1 h), fun h hno => ?_, fun id own ox oy h hd hc hb => ⟨fun hr => ?_, ?_⟩, ?_⟩
    · cases hd : degraded with
      | true => rw [hdraw h, hd]; rfl
      | false =>
        obtain hno | hno := hno
        · rw [hd] at hno; cases hno
        · exact hplain h hd (contentPixel_none hno)
    · exact hplain h hd (contentPixel_noPhoto hc hb hr)
    · intro r hr px py inside pixel
      have hphoto := contentPixel_photo (n := n) (x := x) (snap := snap) hc hb hr
      refine ⟨fun hout => hplain h hd (hphoto.trans (if_neg hout)), fun hin hkey => ?_, fun hin hkey => ?_⟩
      · rw [hpixel _ _ h hd (hphoto.trans (if_pos hin)), photoAlpha_eq, if_pos hkey]
        exact blend_zero _ _
      · rw [hpixel _ _ h hd (hphoto.trans (if_pos hin)), photoAlpha_eq, if_neg hkey]
    · intro start style item v glyphs h hd hx hc hb hi he slot width inked
      have htext := contentPixel_text (s := s) (n := n) (x := x) hc hb hi he
      have hink : _ ↔ inked := screenInk_iff (slots := s.glyphs.slots) (font := style.font) (tracking := style.tracking)
        (start := start) (n := n) (glyphs := glyphs) (top := e.tile.y + style.textTop) hx
      rw [← Int.sub_sub] at hink
      exact ⟨fun hin => hpixel _ _ h hd (htext.trans (if_pos (hink.2 hin))), fun hno =>
        hplain h hd (htext.trans (if_neg fun hin => hno (hink.1 hin)))⟩

end Sys2Proof.Machine
end

section
/-! No operation reads what the ports have carried: each goes on from whatever they carried before. -/

namespace Sys2Proof.Machine

/-- The state with what its ports have carried changed by φ. -/
def State.mapOut (φ : Outputs → Outputs) (s : State) : State := { s with out := φ s.out }

theorem State.mapOut_timing (φ : Outputs → Outputs) (s : State) : (s.mapOut φ).timing = s.timing := rfl

theorem State.mapOut_frame (φ : Outputs → Outputs) (s : State) : (s.mapOut φ).frame = s.frame := rfl

def Taken.mapOut (φ : Outputs → Outputs) (t : Taken) : Taken := { t with state := t.state.mapOut φ }

/-- A change to what the ports have carried that leaves the lines carried after it as they are. -/
structure Earlier (φ : Outputs → Outputs) : Prop where
  composed : ∀ (o : Outputs) l, φ { o with composed := o.composed ++ l } = { φ o with composed := (φ o).composed ++ l }
  panel : ∀ (o : Outputs) l, φ { o with panel := o.panel ++ l } = { φ o with panel := (φ o).panel ++ l }

/-! ### Commands and packets -/

section
variable (φ : Outputs → Outputs) (s : State)

theorem stagedEdit_mapOut (ok : Bool) (e : Option (Bank → Option Bank)) :
    stagedEdit (s.mapOut φ) ok e = (stagedEdit s ok e).mapOut φ := by
  simp only [stagedEdit, commitEdit_eq]
  dsimp +instances only [State.mapOut]
  (repeat' split) <;> rfl

theorem carryNodeReset_mapOut (p : List Byte) : carryNodeReset p (s.mapOut φ) = (carryNodeReset p s).mapOut φ := by
  simp only [carryNodeReset, resetTables, resetFull, raiseIf_eq]
  split
  · rfl
  · split <;> rfl

theorem carryOut_mapOut (code : Byte) (p : List Byte) : carryOut code p (s.mapOut φ) = (carryOut code p s).mapOut φ := by
  unfold carryOut
  split
  case h_1 | h_2 | h_3 | h_4 | h_5 | h_6 | h_7 | h_8 => exact stagedEdit_mapOut φ s _ _
  case h_25 => exact carryNodeReset_mapOut φ s p
  case h_27 => rfl
  all_goals
    simp only [carryAudit, carryTakeCancel, carryStock, carryForce, carryHighlight, carryBacklight, carryConfigPut,
      carryGammaPut, carryPhotoOpen, carryCapture, carryGlyphLoad, carryQuery, carryRestrap, carryTake, carryStageCopy,
      carryPhotoDrop, carryCaptureFlush, abortAudit_eq, takeAborts_eq, raiseIf_eq, policyInEffect, frameSettings,
      referenceCount]
    dsimp +instances only [State.mapOut]
    (repeat' split) <;> rfl

theorem takePacket_mapOut (k : Packet) : takePacket (s.mapOut φ) k = (takePacket s k).mapOut φ := by
  have hanswered : answered (s.mapOut φ) k = answered s k := answered_congr (s := s) (t := s.mapOut φ) rfl k
  rw [takePacket, takePacket, hanswered, carryOut_mapOut]
  split <;> rfl

theorem takePackets_mapOut (n : Nat) : takePackets n (s.mapOut φ) = (takePackets n s).mapOut φ := by
  induction n generalizing s with
  | zero => rfl
  | succ n ih =>
    unfold takePackets
    dsimp +instances only [State.mapOut]
    split
    · next f k rest hf hq =>
      have hstall : (answered (s.mapOut φ) k && replyFull (s.mapOut φ)) = (answered s k && replyFull s) :=
        congrArg (· && replyFull s) (answered_congr (s := s) (t := s.mapOut φ) rfl k)
      change (if (answered (s.mapOut φ) k && replyFull (s.mapOut φ)) = true then s.mapOut φ
        else takePackets n (takePacket (State.mapOut φ { s with intake := rest }) k)) = _
      rw [hstall, takePacket_mapOut, ih]
      split <;> rfl
    · rfl

theorem process_mapOut : (s.mapOut φ).process = s.process.mapOut φ := takePackets_mapOut φ s _

theorem joinIntake_mapOut (k : Packet) : joinIntake (s.mapOut φ) k = (joinIntake s k).mapOut φ := by
  unfold joinIntake
  dsimp +instances only [State.mapOut]
  split <;> rfl

theorem packetArrives_mapOut (k : Packet) : packetArrives (s.mapOut φ) k = (packetArrives s k).mapOut φ := by
  have htarget : targeted (s.mapOut φ) k.head = targeted s k.head := rfl
  rw [packetArrives, packetArrives, htarget, joinIntake_mapOut, process_mapOut]
  split <;> rfl

theorem packetBytes_mapOut (bs : List Byte) : packetBytes (s.mapOut φ) bs = (packetBytes s bs).mapOut φ := by
  unfold packetBytes
  cases parsePacket bs with
  | none => rfl
  | some k => exact packetArrives_mapOut φ s k

/-! ### Frame starts and stops -/

theorem failRequest_mapOut (q : CaptureRequest) (r : StripResult) :
    failRequest (s.mapOut φ) q r = (failRequest s q r).mapOut φ := by
  unfold failRequest
  dsimp +instances only [State.mapOut]
  (repeat' split) <;> rfl

theorem failInFlight_mapOut (r : StripResult) : failInFlight (s.mapOut φ) r = (failInFlight s r).mapOut φ := by
  unfold failInFlight
  dsimp +instances only [State.mapOut]
  split
  · rfl
  · exact failRequest_mapOut φ { s with capture := { s.capture with inFlight := none } } _ _

theorem auditFrame_mapOut : auditFrame (s.mapOut φ) = (auditFrame s).mapOut φ := by
  have hcheck (c : Nat) : runCheck (s.mapOut φ) c = runCheck s c := rfl
  simp only [auditFrame, hcheck]
  dsimp +instances only [State.mapOut]
  (repeat' split) <;> rfl

theorem keepFlags_mapOut : keepFlags (s.mapOut φ) = (keepFlags s).mapOut φ := by
  unfold keepFlags
  dsimp +instances only [State.mapOut]
  split <;> rfl

theorem expireCounts_mapOut : expireCounts (s.mapOut φ) = (expireCounts s).mapOut φ := by
  unfold expireCounts
  dsimp +instances only [State.mapOut]
  split <;> rfl

theorem settleTake_mapOut (n : FrameNo) (c : Bool) : settleTake (s.mapOut φ) n c = (settleTake s n c).mapOut φ := by
  unfold settleTake
  dsimp +instances only [State.mapOut]
  (repeat' split) <;> rfl

theorem newNumber_mapOut (c : FrameCause) : newNumber (s.mapOut φ) c = newNumber s c := by cases c <;> rfl

theorem isDiscontinuity_mapOut (c : FrameCause) : isDiscontinuity (s.mapOut φ) c = isDiscontinuity s c := by cases c <;> rfl

theorem timeFrame_mapOut (n : FrameNo) (b : Bool) : timeFrame (s.mapOut φ) n b = (timeFrame s n b).mapOut φ := rfl

theorem settleFrame_mapOut (c : FrameCause) (b : Bool) : settleFrame (s.mapOut φ) c b = (settleFrame s c b).mapOut φ := by
  simp only [settleFrame, failInFlight_mapOut, keepFlags_mapOut, auditFrame_mapOut, newNumber_mapOut, timeFrame_mapOut,
    isDiscontinuity_mapOut, expireCounts_mapOut, settleTake_mapOut]

theorem beginFrame_mapOut (k : FrameKind) : beginFrame (s.mapOut φ) k = (beginFrame s k).mapOut φ := rfl

theorem samplePanel_mapOut : samplePanel (s.mapOut φ) = (samplePanel s).mapOut φ := by
  unfold samplePanel
  dsimp +instances only [State.mapOut]
  (repeat' split) <;> rfl

theorem stepBacklight_mapOut : stepBacklight (s.mapOut φ) = (stepBacklight s).mapOut φ := by
  unfold stepBacklight
  dsimp +instances only [State.mapOut]
  split <;> rfl

theorem armCapture_mapOut : armCapture (s.mapOut φ) = (armCapture s).mapOut φ := by
  unfold armCapture
  dsimp +instances only [State.mapOut]
  split
  · next request rest _ _ _ _ _ =>
    split
    · rfl
    · exact failRequest_mapOut φ { s with capture := { s.capture with queue := rest } } request _
  · rfl

theorem armIfGood_mapOut (c : FrameCause) : armIfGood (s.mapOut φ) c = (armIfGood s c).mapOut φ := by
  cases c with
  | goodHeader n => exact armCapture_mapOut φ s
  | badHeader | headerTimer | localTimer => rfl

theorem missAtStop_mapOut : missAtStop (s.mapOut φ) = (missAtStop s).mapOut φ := by
  unfold missAtStop
  dsimp +instances only [State.mapOut]
  (repeat' split) <;> rfl

theorem inputRunning_mapOut : inputRunning (s.mapOut φ) = inputRunning s := rfl

end

/-! ### Lines that are composed -/

section
variable {φ : Outputs → Outputs} (hφ : Earlier φ) (s : State)
include hφ

theorem drive_mapOut (x : PanelSymbol) : (s.mapOut φ).drive x = (s.drive x).mapOut φ := by
  unfold State.drive
  dsimp +instances only [State.mapOut]
  split
  · rw [hφ.panel]
  · rfl

theorem composeLine_mapOut (n : Nat) (base : Nat → Color) :
    composeLine (s.mapOut φ) n base = (composeLine s n base).mapOut φ := by
  have hpixels : linePixels (s.mapOut φ) = linePixels s := rfl
  have hgrants : lineGrants (s.mapOut φ) = lineGrants s := rfl
  have hline (f : Option Frame) (l : ComposedLine) :
      State.mapOut φ { s with frame := f, out := { s.out with composed := s.out.composed ++ [l] } } =
        { s with frame := f, out := { φ s.out with composed := (φ s.out).composed ++ [l] } } := by
    rw [State.mapOut, hφ.composed]
  unfold composeLine
  rw [hpixels, hgrants, State.mapOut_frame]
  cases s.frame with
  | none => rfl
  | some f => exact (congrArg (State.drive · _) (hline _ _).symm).trans (drive_mapOut hφ _ _)

theorem composeFillLine_mapOut : composeFillLine (s.mapOut φ) = (composeFillLine s).mapOut φ := by
  unfold composeFillLine
  dsimp +instances only [State.mapOut]
  split
  · rfl
  · split
    · exact composeLine_mapOut hφ s _ _
    · rfl

theorem frameStart_mapOut (c : FrameCause) (b : Bool) : frameStart (s.mapOut φ) c b = (frameStart s c b).mapOut φ := by
  simp only [frameStart, settleFrame_mapOut, beginFrame_mapOut, samplePanel_mapOut, stepBacklight_mapOut, armIfGood_mapOut]
  unfold openFrame
  split
  · rw [drive_mapOut hφ, composeFillLine_mapOut hφ]
  · exact drive_mapOut hφ _ _

theorem goodHeader_mapOut (h : Header) : goodHeader (s.mapOut φ) h = (goodHeader s h).mapOut φ := by
  have hstart (l : FrameTiming) := frameStart_mapOut hφ { s with timing := l } (.goodHeader h.number) false
  have henter (l : LinkState) := frameStart_mapOut hφ (s.enter l 0) (.goodHeader h.number) false
  have hlive := frameStart_mapOut hφ (enterLive s) (.goodHeader h.number) false
  unfold goodHeader
  rw [State.mapOut_timing]
  cases s.timing.link with
  | live => exact hstart _
  | lossWait => exact henter _
  | search | standalone =>
    simp only
    split
    · rfl
    · exact hlive

theorem missFrame_mapOut (c : FrameCause) : missFrame (s.mapOut φ) c = (missFrame s c).mapOut φ := by
  have hstart (l : FrameTiming) := frameStart_mapOut hφ { s with timing := l } c false
  have henter := frameStart_mapOut hφ (s.enter .lossWait 1) c false
  have halone := frameStart_mapOut hφ (enterStandalone s) c true
  unfold missFrame
  rw [State.mapOut_timing]
  cases s.timing.link with
  | live => exact henter
  | lossWait | search | standalone =>
    simp only
    split
    · exact hstart _
    · exact halone

theorem badHeader_mapOut : badHeader (s.mapOut φ) = (badHeader s).mapOut φ := by
  unfold badHeader
  dsimp +instances only [State.mapOut]
  split
  · rfl
  · rfl
  · exact missFrame_mapOut hφ s _

theorem headerEnd_mapOut (bs : List Byte) : headerEnd (s.mapOut φ) bs = (headerEnd s bs).mapOut φ := by
  unfold headerEnd
  cases parseHeader bs with
  | none => exact badHeader_mapOut hφ { s with receiver := _ }
  | some h => exact goodHeader_mapOut hφ { s with receiver := _, timing := _ } h

theorem stopInput_mapOut : stopInput (s.mapOut φ) = (stopInput s).mapOut φ := by
  unfold stopInput
  rw [inputRunning_mapOut]
  split
  · have hclose : closeInput (s.mapOut φ) = (closeInput s).mapOut φ := rfl
    rw [hclose, failInFlight_mapOut, missAtStop_mapOut, composeFillLine_mapOut hφ]
  · rfl

theorem headerArrives_mapOut (bs : List Byte) : headerArrives (s.mapOut φ) bs = (headerArrives s bs).mapOut φ := by
  rw [headerArrives, headerEnd_mapOut hφ, process_mapOut, headerArrives]

theorem cutLine_mapOut (cut : Option (List Byte)) : cutLine (s.mapOut φ) cut = (cutLine s cut).mapOut φ := by
  unfold cutLine
  dsimp +instances only [State.mapOut]
  split
  · exact headerArrives_mapOut hφ s _
  · unfold cutPacket
    split
    · rfl
    · split
      · exact packetBytes_mapOut φ s _
      · rfl
  · rfl
end
end Sys2Proof.Machine
end

section
/-! A mark, a signal loss or a line gap: the line it cuts, and the input lines it stops (R106, R108, R115, R144–R149, R167–R169). -/

namespace Sys2Proof.Machine

/-! ### Changes to what the ports have carried -/

/-- The through port has repeated these symbols instead. -/
def Outputs.setThrough (l : List StreamSymbol) (o : Outputs) : Outputs := { o with through := l }

theorem earlier_setThrough (l : List StreamSymbol) : Earlier (Outputs.setThrough l) := ⟨fun _ _ => rfl, fun _ _ => rfl⟩

theorem earlier_followedBy (a : Outputs) : Earlier a.followedBy where
  composed o l := by simp only [Outputs.followedBy, List.append_assoc]
  panel o l := by simp only [Outputs.followedBy, List.append_assoc]

theorem Outputs.followedBy_noOutputs (a : Outputs) : a.followedBy noOutputs = a := by
  simp [Outputs.followedBy, noOutputs]

/-! ### What a cut line leaves of the pins and RESETn -/

theorem Carried.pins {s t : State} (h : Carried s t) : t.pins = s.pins := by
  cases h <;> simp [staging, resetTables, resetFull, resetBlocks]

theorem process_pins (s : State) : s.process.pins = s.pins :=
  takePackets_induct (P := fun t => t.pins = s.pins)
    (fun t _ k rest ht _ _ _ =>
      takePacket_keeps (P := fun t => t.pins = s.pins) (fun _ _ h => h) (fun _ _ hc h => hc.pins.trans h)
        (s := { t with intake := rest }) ht k) _ s rfl

theorem packetBytes_pins (s : State) (bs : List Byte) : (packetBytes s bs).pins = s.pins := by
  unfold packetBytes packetArrives
  split
  · split
    · rw [process_pins]; simp
    · rfl
  · rfl

theorem packetBytes_resetn {s : State} (h : s.resetn = false) (bs : List Byte) : (packetBytes s bs).resetn = false := by
  unfold packetBytes packetArrives
  split
  · split
    · exact (process_awakeAtRest (by simpa using h)).1
    · exact h
  · exact h

theorem cutLine_pins (s : State) (cut : Option (List Byte)) : (cutLine s cut).pins = s.pins := by
  unfold cutLine
  split
  · rw [headerArrives, process_pins]; simp
  · unfold cutPacket
    (repeat' split) <;> first | rfl | exact packetBytes_pins s _
  · rfl

theorem cutLine_resetn {s : State} (h : s.resetn = false) (cut : Option (List Byte)) : (cutLine s cut).resetn = false := by
  unfold cutLine
  split
  · exact (process_awakeAtRest (by simpa using h)).1
  · unfold cutPacket
    (repeat' split) <;> first | exact h | exact packetBytes_resetn h _
  · exact h

/-! ### Which lines are read when they are cut -/

theorem cutLine_none (s : State) : cutLine s none = s := by
  unfold cutLine
  cases s.receiver.position <;> rfl

/-- A header line, and a packet line, is read as far as it arrived, as a whole line is. -/
theorem readLine_eq_cutLine {s : State} {line : List Byte}
    (h : s.receiver.position = .awaitHeader ∨ line.head? = some 0x02) : readLine s line = cutLine s (some line) := by
  cases hp : s.receiver.position with
  | outside => simp only [readLine, cutLine, hp]
  | awaitHeader => simp only [readLine, cutLine, hp]
  | lines n =>
    obtain h | h := h
    · rw [hp] at h; cases h
    · cases line with
      | nil => cases h
      | cons kind bs =>
        obtain rfl : kind = 0x02 := Option.some.inj h
        cases n <;> simp [readLine, cutLine, hp, laterLine, cutPacket, kindPacket]

/-- A cut line of another kind has not arrived. -/
theorem cutLine_unread {s : State} {line : List Byte} (hp : s.receiver.position ≠ .awaitHeader)
    (h : line.head? ≠ some 0x02) : cutLine s (some line) = s := by
  cases hq : s.receiver.position with
  | outside => simp only [cutLine, hq]
  | awaitHeader => exact absurd hq hp
  | lines n =>
    cases line with
    | nil => simp only [cutLine, hq, cutPacket]
    | cons kind bs =>
      have hk : kind ≠ kindPacket := fun hk => h (congrArg some hk)
      simp only [cutLine, hq, cutPacket, hk, false_and, if_false]

theorem cutLine_badPacket {s : State} {bs : List Byte} (hp : s.receiver.position = .lines 0) (h : parsePacket bs = none) :
    cutLine s (some (0x02 :: bs)) = s.raise .packetCrc := by
  simp [cutLine, hp, cutPacket, kindPacket, packetBytes, h]

/-! ### The three stops -/

/-- The state at the beginning of a row of the input port, the symbols of the row repeated. -/
def heard (s : State) (pins : Pins) (symbols : List StreamSymbol) : State :=
  { s with pins := pins, out := { noOutputs with through := symbols } }

/-- The input is stopped; a mark then begins an input frame (R145, R167). -/
def afterStop (isMark : Bool) (s : State) : State :=
  if isMark then { stopInput s with receiver := { (stopInput s).receiver with position := .awaitHeader } } else stopInput s

theorem afterStop_mapOut {φ : Outputs → Outputs} (hφ : Earlier φ) (isMark : Bool) (s : State) :
    afterStop isMark (s.mapOut φ) = (afterStop isMark s).mapOut φ := by
  unfold afterStop
  rw [stopInput_mapOut hφ]
  cases isMark <;> rfl

theorem stopInput_notRunning {s : State} (h : inputRunning s = false) : stopInput s = s := by
  rw [stopInput, h]; rfl

/-- A row of the three that stop the input, and what it does; a line gap acts only where input lines are arriving. -/
structure StopRow (stop : Option (List Byte) → Instr) (pins : Pins) (isMark : Bool) : Prop where
  mark : isMark = true ↔ stop none = .frameStartMark none pins
  plain : ∀ s : State, s.resetn = false →
    exec (stop none) s = .next (afterStop isMark (heard s pins (streamOf (stop none))))
  cuts : ∀ (s : State) (cut : List Byte), s.resetn = false →
    (stop none = .lineGapTimeout none pins → inputRunning s = true) →
    exec (stop (some cut)) s =
      .next (afterStop isMark (cutLine (heard s pins (.line cut :: streamOf (stop none))) (some cut)))
  symbols : ∀ cut, streamOf (stop (some cut)) = .line cut :: streamOf (stop none)
  idle : ∀ (s : State) (cut : List Byte), ¬ (stop none = .lineGapTimeout none pins → inputRunning s = true) →
    exec (stop (some cut)) s = .next (heard s pins [.line cut])

theorem frameStartMark_stops (pins : Pins) : StopRow (fun cut => .frameStartMark cut pins) pins true where
  mark := by simp
  plain s hr := by
    simp only [exec, execFrameStartMark, hr, cutLine_none, Bool.false_eq_true, if_false]
    rfl
  cuts s cut hr _ := by
    simp only [exec, execFrameStartMark, hr, Bool.false_eq_true, if_false]
    rfl
  symbols _ := rfl
  idle s cut h := absurd (fun hno => by cases hno) h

theorem inputSignalLoss_stops (pins : Pins) : StopRow (fun cut => .inputSignalLoss cut pins) pins false where
  mark := by simp
  plain s hr := by
    simp only [exec, execInputSignalLoss, hr, cutLine_none, Bool.false_eq_true, if_false]
    rfl
  cuts s cut hr _ := by
    simp only [exec, execInputSignalLoss, hr, Bool.false_eq_true, if_false]
    rfl
  symbols _ := rfl
  idle s cut h := absurd (fun hno => by cases hno) h

theorem lineGapTimeout_stops (pins : Pins) : StopRow (fun cut => .lineGapTimeout cut pins) pins false where
  mark := by simp
  plain s _ := by
    simp only [exec, execLineGapTimeout, cutLine_none]
    split
    · rfl
    · next h => exact congrArg _ (stopInput_notRunning (s := heard s pins []) (Bool.eq_false_of_not_eq_true h)).symm
  cuts s cut _ h := by
    simp only [exec, execLineGapTimeout, h rfl, if_true]
    rfl
  symbols _ := rfl
  idle s cut h := by
    have hi : ¬ inputRunning s = true := fun hi => h fun _ => hi
    simp only [exec, execLineGapTimeout, if_neg hi]
    rfl

theorem stopRow {stop : Option (List Byte) → Instr} {pins : Pins}
    (h : (stop = fun cut => .frameStartMark cut pins) ∨ (stop = fun cut => .inputSignalLoss cut pins) ∨
      (stop = fun cut => .lineGapTimeout cut pins)) : ∃ isMark, StopRow stop pins isMark := by
  obtain rfl | rfl | rfl := h
  · exact ⟨true, frameStartMark_stops pins⟩
  · exact ⟨false, inputSignalLoss_stops pins⟩
  · exact ⟨false, lineGapTimeout_stops pins⟩

end Sys2Proof.Machine
end

section
/-! What a stop leaves (R106, R108, R115, R144–R146, R149), and the line it cuts (R167–R169). -/

namespace Sys2Proof.Machine

/-! ### The miss -/

section
variable {s : State} {f : Frame}

theorem missAtStop_counts (hf : s.frame = some f)
    (hc : f.kind = .goodHeader ∧ s.timing.missed = false ∧ s.timing.link = .live) :
    (missAtStop s).timing = { s.timing with link := .lossWait, good := 0, miss := s.timing.miss + 1, missed := true } ∧
    (missAtStop s).lane.events.linkChanged = true := by
  simp only [missAtStop, hf, hc, and_self, if_true]
  exact ⟨rfl, rfl⟩

theorem missAtStop_else (hf : s.frame = some f)
    (hc : ¬ (f.kind = .goodHeader ∧ s.timing.missed = false ∧ s.timing.link = .live)) : missAtStop s = s := by
  simp only [missAtStop, hf, if_neg hc]

theorem missAtStop_raises (s : State) : RaisesOnly [.linkChanged] s (missAtStop s) := by
  unfold missAtStop
  split
  · split
    · exact .trans (.trans (.of_eq rfl)
        (.raise (List.mem_singleton_self _)
          { s with timing := { s.timing with link := .lossWait, good := 0, miss := s.timing.miss + 1 } }))
        (.of_eq rfl)
    · exact .of_eq rfl
  · exact .of_eq rfl

/-! ### The stop -/

/-- The stop before the line it composes. -/
def beforeFill (s : State) : State := missAtStop (failInFlight (closeInput s) .lost)

theorem stopInput_running (h : inputRunning s = true) : stopInput s = composeFillLine (beforeFill s) := by
  rw [stopInput, h]; rfl

theorem beforeFill_progress (hf : s.frame = some f) : (beforeFill s).frame = some { f with inputOpen := false } := by
  simp [beforeFill, closeInput, hf]

theorem beforeFill_captures :
    (beforeFill s).capture = (failInFlight (closeInput s) .lost).capture ∧
    (beforeFill s).photos = (failInFlight (closeInput s) .lost).photos ∧
    (beforeFill s).glyphs = (failInFlight (closeInput s) .lost).glyphs := by
  simp [beforeFill]

theorem beforeFill_counts (hf : s.frame = some f)
    (hc : f.kind = .goodHeader ∧ s.timing.missed = false ∧ s.timing.link = .live) :
    (beforeFill s).timing = { s.timing with link := .lossWait, good := 0, miss := s.timing.miss + 1, missed := true } ∧
    (beforeFill s).lane.events.linkChanged = true := by
  have htiming : (failInFlight (closeInput s) .lost).timing = s.timing := by simp
  have hframe : (failInFlight (closeInput s) .lost).frame = some { f with inputOpen := false } := by simp [closeInput, hf]
  have hcounts := missAtStop_counts hframe (by rw [htiming]; exact hc)
  rwa [htiming] at hcounts

theorem beforeFill_keepsTiming (hf : s.frame = some f)
    (hc : ¬ (f.kind = .goodHeader ∧ s.timing.missed = false ∧ s.timing.link = .live)) :
    (beforeFill s).timing = s.timing := by
  have htiming : (failInFlight (closeInput s) .lost).timing = s.timing := by simp
  have hframe : (failInFlight (closeInput s) .lost).frame = some { f with inputOpen := false } := by simp [closeInput, hf]
  have hsame := missAtStop_else hframe (by rw [htiming]; exact hc)
  rw [beforeFill, hsame, htiming]

theorem beforeFill_failed (h : (failInFlight (closeInput s) .lost).lane.events.captureFailed = true) :
    (beforeFill s).lane.events.captureFailed = true := (missAtStop_raises _ .captureFailed).1 h

theorem stopInput_raises (e : Event) (h : s.lane.events.has e = true) : (stopInput s).lane.events.has e = true := by
  unfold stopInput
  split
  · have hfail := (failInFlight_raises (closeInput s) .lost e).1 h
    have hmiss := (missAtStop_raises _ e).1 hfail
    have hlane : ∀ u : State, (composeFillLine u).lane = u.lane := fun u => by simp
    rwa [hlane]
  · exact h

theorem State.begin_mapOut_followedBy (s : State) : s.begin.mapOut s.out.followedBy = s := by
  change { s with out := s.out.followedBy noOutputs } = s
  rw [Outputs.followedBy_noOutputs]

theorem afterStop_eq (isMark : Bool) (s : State) :
    afterStop isMark s =
      { stopInput s with
        receiver := if isMark then { s.receiver with position := .awaitHeader } else s.receiver } := by
  have hreceiver : (stopInput s).receiver = s.receiver := by simp
  cases isMark
  · simp only [afterStop, Bool.false_eq_true, if_false, ← hreceiver]
  · simp only [afterStop, if_true, hreceiver]

/-- The next line over fill: where a line is left, and where none is. -/
structure FillLine (s : State) (f g : Frame) : Prop where
  progress : (composeFillLine s).frame = some g
  stands : g.inputOpen = f.inputOpen ∧ g.snap = f.snap ∧ g.kind = f.kind
  composed : f.nextLine < f.snap.settings.vh →
    g.nextLine = f.nextLine + 1 ∧ g.tiles = tilesAfter (lineGrants s f f.nextLine).1 ∧
    (composeFillLine s).out.composed = s.out.composed ++
      [⟨f.nextLine, linePixels s f.snap (lineGrants s f f.nextLine).1 (fun _ => f.snap.settings.fill) f.nextLine⟩]
  full : f.snap.settings.vh ≤ f.nextLine → g = f ∧ composeFillLine s = s

theorem composeFillLine_spec (hf : s.frame = some f) : ∃ g, FillLine s f g := by
  obtain hn | hn := lt_or_ge f.nextLine f.snap.settings.vh
  · refine ⟨{ f with tiles := tilesAfter (lineGrants s f f.nextLine).1, nextLine := f.nextLine + 1 }, ?_, ⟨rfl, rfl, rfl⟩,
      fun _ => ⟨rfl, rfl, ?_⟩, fun h => absurd hn (not_lt.2 h)⟩
    · rw [composeFillLine_of_lt hf hn, composeLine_progress hf]
    · rw [composeFillLine_of_lt hf hn, composeLine_out hf]
  · have hsame := composeFillLine_of_le hf hn
    exact ⟨f, by rw [hsame, hf], ⟨rfl, rfl, rfl⟩, fun h => absurd h (not_lt.2 hn), fun _ => ⟨rfl, hsame⟩⟩

end

/-- The state in which the input is stopped, but for its receiver, is one whose next line is composed over fill. -/
structure Filled (v t : State) : Prop where
  frame : t.frame = (composeFillLine v).frame
  out : t.out = (composeFillLine v).out
  timing : t.timing = v.timing
  lane : t.lane = v.lane
  capture : t.capture = v.capture
  photos : t.photos = v.photos
  glyphs : t.glyphs = v.glyphs

theorem afterStop_filled (isMark : Bool) {w : State} (hi : inputRunning w = true) :
    Filled (beforeFill w) (afterStop isMark w) := by
  rw [afterStop_eq, stopInput_running hi]
  constructor <;> simp

/-! ### The rows -/

section
variable {stop : Option (List Byte) → Instr} {pins : Pins} {isMark : Bool} (R : StopRow stop pins isMark) {s : State}
include R

theorem StopRow.plain_notRunning (hr : s.resetn = false) (hi : inputRunning s = false) :
    exec (stop none) s =
      .next
        { s with
          pins := pins
          out := { noOutputs with through := streamOf (stop none) }
          receiver :=
            { s.receiver with
              position := if stop none = .frameStartMark none pins then .awaitHeader else s.receiver.position } } := by
  have hno : inputRunning (heard s pins (streamOf (stop none))) = false := hi
  rw [R.plain s hr, afterStop_eq, stopInput_notRunning hno]
  cases isMark with
  | true =>
    have hmark := R.mark.1 rfl
    simp only [hmark, if_true]
    rfl
  | false =>
    have hmark : ¬ stop none = .frameStartMark none pins := fun h => Bool.false_ne_true (R.mark.2 h)
    simp only [hmark, if_false]
    rfl

/-- A header line or a packet line that is cut is read as a PACKET_LINE row of it would be, and then the input stops. -/
theorem StopRow.cut_read {cut : List Byte} (hr : s.resetn = false)
    (ha : stop none = .lineGapTimeout none pins → inputRunning s = true)
    (hread : s.receiver.position = .awaitHeader ∨ cut.head? = some 0x02) :
    ∃ u t, exec (.packetLine cut pins) s = .next u ∧ exec (stop none) u = .next t ∧
      exec (stop (some cut)) s = .next { t with out := u.out.followedBy t.out } := by
  obtain ⟨c, hc⟩ : ∃ c, cutLine (heard s pins []) (some cut) = c := ⟨_, rfl⟩
  have hpins : c.pins = pins := hc ▸ cutLine_pins (heard s pins []) (some cut)
  have hawake : c.resetn = false := hc ▸ cutLine_resetn (s := heard s pins []) hr (some cut)
  have hcut (l : List StreamSymbol) : cutLine (heard s pins l) (some cut) = c.mapOut (Outputs.setThrough l) :=
    (cutLine_mapOut (earlier_setThrough l) (heard s pins []) (some cut)).trans (congrArg _ hc)
  have hheard : heard (c.mapOut (Outputs.setThrough [.line cut])) pins (streamOf (stop none)) =
      c.begin.mapOut (Outputs.setThrough (streamOf (stop none))) := by rw [← hpins]; rfl
  refine ⟨c.mapOut (Outputs.setThrough [.line cut]),
    (afterStop isMark c.begin).mapOut (Outputs.setThrough (streamOf (stop none))), ?_, ?_, ?_⟩
  · rw [exec_packetLine hr, ← hcut]
    exact congrArg _ (readLine_eq_cutLine (s := heard s pins [.line cut]) hread)
  · rw [R.plain (c.mapOut _) hawake, hheard, afterStop_mapOut (earlier_setThrough _)]
  · have hafter : afterStop isMark c = (afterStop isMark c.begin).mapOut c.out.followedBy := by
      rw [← afterStop_mapOut (earlier_followedBy _), State.begin_mapOut_followedBy]
    rw [R.cuts s cut hr ha, hcut, afterStop_mapOut (earlier_setThrough _), hafter]
    rfl

theorem StopRow.cut_unread {cut : List Byte} (hr : s.resetn = false)
    (ha : stop none = .lineGapTimeout none pins → inputRunning s = true)
    (hp : s.receiver.position ≠ .awaitHeader) (hk : cut.head? ≠ some 0x02) :
    ∃ t, exec (stop none) s = .next t ∧
      exec (stop (some cut)) s = .next { t with out := { t.out with through := streamOf (stop (some cut)) } } := by
  refine ⟨_, R.plain s hr, ?_⟩
  have hunread := cutLine_unread (s := heard s pins (.line cut :: streamOf (stop none))) hp hk
  rw [R.cuts s cut hr ha, hunread, R.symbols]
  exact congrArg _ (afterStop_mapOut (earlier_setThrough (.line cut :: streamOf (stop none))) isMark
    (heard s pins (streamOf (stop none))))

theorem StopRow.cut_badPacket {bytes : List Byte} (hr : s.resetn = false)
    (ha : stop none = .lineGapTimeout none pins → inputRunning s = true)
    (hp : s.receiver.position = .lines 0) (hk : parsePacket bytes = none) :
    ∃ t, exec (stop (some (0x02 :: bytes))) s = .next t ∧ t.lane.events.packetCrc = true := by
  refine ⟨_, R.cuts s _ hr ha, ?_⟩
  rw [cutLine_badPacket (s := heard s pins _) hp hk, afterStop_eq]
  exact stopInput_raises .packetCrc rfl

theorem StopRow.plain_receiver {w : State} :
    (stop none = .frameStartMark none pins → (afterStop isMark w).receiver = ⟨.awaitHeader, w.receiver.canvas⟩) ∧
    (stop none ≠ .frameStartMark none pins → (afterStop isMark w).receiver = w.receiver) := by
  rw [afterStop_eq]
  refine ⟨fun h => if_pos (R.mark.2 h), fun h => if_neg fun hm => h (R.mark.1 hm)⟩

end

/-- The line that is composed, as the statement of O40 gives it. -/
theorem Filled.line {v t : State} {f g : Frame} (F : Filled v t) (hg : FillLine v { f with inputOpen := false } g)
    (hout : v.out.composed = []) :
    (f.nextLine < f.snap.settings.vh →
      ∃ pixels,
        pixels = (List.range f.snap.settings.vw).map
          (linePixel t f.snap (lineGrants t f f.nextLine).1 (fun _ => f.snap.settings.fill) f.nextLine) ∧
        t.out.composed = [⟨f.nextLine, pixels⟩] ∧ g.nextLine = f.nextLine + 1 ∧
        g.tiles = tilesAfter (lineGrants t f f.nextLine).1 ∧
        (f.tiles = [] → f.snap.high0 = none → f.snap.high1 = none →
          pixels = List.replicate f.snap.settings.vw f.snap.settings.fill)) ∧
    (f.snap.settings.vh ≤ f.nextLine → g.nextLine = f.nextLine ∧ g.tiles = f.tiles ∧ t.out.composed = []) := by
  have hgrants : lineGrants t f = lineGrants v { f with inputOpen := false } :=
    congrFun (lineGrants_congr (congrArg PhotoStore.directory F.photos)) f
  have hpixel : linePixel t = linePixel v := linePixel_congr F.photos F.glyphs
  refine ⟨fun hn => ?_, fun hn => ?_⟩
  · obtain ⟨hnext, htiles, hcomposed⟩ := hg.composed hn
    rw [hgrants, hpixel]
    refine ⟨_, rfl, ?_, hnext, htiles, fun ht h0 h1 => ?_⟩
    · rw [F.out, hcomposed, hout]
      rfl
    · exact linePixels_bare v (f := { f with inputOpen := false }) ht h0 h1 _ _ _
  · obtain ⟨rfl, hsame⟩ := hg.full hn
    exact ⟨rfl, rfl, by rw [F.out, hsame, hout]⟩

/-- What becomes of the request in flight, as the statement of O40 gives it. -/
theorem Filled.captures {w t : State} (F : Filled (beforeFill w) t) :
    (w.capture.inFlight = none → t.capture = w.capture ∧ t.photos = w.photos ∧ t.glyphs = w.glyphs) ∧
    (∀ id x y row rows n, w.capture.inFlight = some ⟨.strip id x y row rows, n⟩ → StripFailed w t id .lost) ∧
    (∀ font slot x y width height n, w.capture.inFlight = some ⟨.glyph font slot x y width height, n⟩ →
      GlyphFailed w t font slot) := by
  obtain ⟨hcapture, hphotos, hglyphs⟩ := beforeFill_captures (s := w)
  have hc := F.capture.trans hcapture
  have hp := F.photos.trans hphotos
  have hg := F.glyphs.trans hglyphs
  have hraised (h : (failInFlight (closeInput w) .lost).lane.events.captureFailed = true) :
      t.lane.events.captureFailed = true := by
    rw [F.lane]; exact beforeFill_failed h
  refine ⟨fun hn => ?_, fun id x y row rows n hn => ?_, fun font slot x y width height n hn => ?_⟩
  · rw [failInFlight_idle (s := closeInput w) hn] at hc hp hg
    exact ⟨hc, hp, hg⟩
  · have hfail := failInFlight_strip (s := closeInput w) hn .lost
    exact ⟨hc.trans hfail.capture, hg.trans hfail.glyphs, by rw [hp]; exact hfail.photos, hraised hfail.raised,
      fun j => by rw [hp]; exact hfail.record j⟩
  · have hfail := failInFlight_glyph (s := closeInput w) hn .lost
    exact ⟨hc.trans hfail.capture, hg.trans hfail.glyphs, hp.trans hfail.photos, hraised hfail.raised⟩

/-- What becomes of the miss count, as the statement of O40 gives it. -/
theorem Filled.miss {w t : State} {f : Frame} (F : Filled (beforeFill w) t) (hf : w.frame = some f) :
    (f.kind = .goodHeader ∧ w.timing.missed = false ∧ w.timing.link = .live →
      t.timing = { w.timing with link := .lossWait, good := 0, miss := w.timing.miss + 1, missed := true } ∧
      t.lane.events.linkChanged = true) ∧
    (¬ (f.kind = .goodHeader ∧ w.timing.missed = false ∧ w.timing.link = .live) → t.timing = w.timing) := by
  rw [F.timing, F.lane]
  exact ⟨beforeFill_counts hf, beforeFill_keepsTiming hf⟩

/-- Settles O40: the three rows are one stop (`StopRow`), before which a line in progress is read as far as it arrived; that
the ports carry the two one after the other holds because no operation reads what they have carried (`cutLine_mapOut`,
`stopInput_mapOut`). -/
theorem stopsEndArrivingInputLines : Obligations.StopsEndArrivingInputLines := by
  unfold Obligations.StopsEndArrivingInputLines
  intro s stop pins hr hstop acts
  obtain ⟨isMark, R⟩ := stopRow hstop
  refine ⟨R.plain_notRunning hr, fun f hf hi => ?_, fun cut => R.idle s cut, fun _ ha => R.cut_read hr ha,
    fun _ ha => R.cut_unread hr ha, fun _ ha => R.cut_badPacket hr ha⟩
  have hexec := R.plain s hr
  obtain ⟨hmark, hother⟩ := R.plain_receiver (w := heard s pins (streamOf (stop none)))
  have F := afterStop_filled isMark (w := heard s pins (streamOf (stop none))) hi
  obtain ⟨g, hg⟩ := composeFillLine_spec (beforeFill_progress (s := heard s pins (streamOf (stop none))) hf)
  obtain ⟨hopen, hsnap, hkind⟩ := hg.stands
  obtain ⟨hidle, hstrip, hglyph⟩ := F.captures
  obtain ⟨hcounts, hnot⟩ := F.miss (f := f) hf
  obtain ⟨hline, hfull⟩ := F.line hg (by simp [beforeFill, heard, noOutputs])
  refine ⟨_, g, hexec, F.frame.trans hg.progress, hopen, hsnap, hkind, hmark, hother, hcounts, hnot, hidle,
    fun id x y row rows n hn => ?_, fun font slot x y w h n hn => ?_, hline, hfull⟩
  · obtain ⟨hcapture, hglyphs, hphotos, hraised, hrecord⟩ := hstrip id x y row rows n hn
    exact ⟨hcapture, hglyphs, hphotos, hraised, hrecord⟩
  · obtain ⟨hcapture, hglyphs, hphotos, hraised⟩ := hglyph font slot x y w h n hn
    exact ⟨hcapture, hphotos, hraised, hglyphs⟩

end Sys2Proof.Machine
end
